-- ==== Sys2Proof/Word.lean ====
section
/-! DEFINITION. The word types of the CORE (spec/00_scope.md R7, R9, R10): bytes, 16-bit words, 12-bit addresses and
4-bit register indices. All values are unsigned. -/

namespace Sys2Proof

/-- An 8-bit unsigned value: one byte of memory, of a V register or of the framebuffer (R7). -/
abbrev Byte := BitVec 8

/-- A 16-bit unsigned value: an instruction word, `I`, `pc` or a stack entry (R7). -/
abbrev Word := BitVec 16

/-- The 12-bit `nnn` field of an instruction (R81). -/
abbrev Addr12 := BitVec 12

/-- The index of a V register: a nibble, "always valid indices 0–15 by construction" (R20). -/
abbrev Reg := Fin 16

/-- A key code 0x0..0xF (R29, R311). -/
abbrev Key := Fin 16

end Sys2Proof
end

