-- ==== Sys2Proof/Syntax.lean ====
section
/-! DEFINITION. The decoded operation: "a closed sum type" with exactly 32 constructors, in the order of the source's
catalogue (spec/30_encoding.md R85), one for each row of spec/opcode_table.json. -/

namespace Sys2Proof

/-- The 32 operations of R85. The operands are the fields of R81 that the operation's row of R87 names. -/
inductive Instr where
  /-- 00E0 CLS (R240). -/
  | cls
  /-- 00EE RET (R128). -/
  | ret
  /-- 1nnn JP addr (R126). -/
  | jp (nnn : Addr12)
  /-- 2nnn CALL addr (R127). -/
  | call (nnn : Addr12)
  /-- 3xkk SE Vx,byte (R129). -/
  | seImm (x : Reg) (kk : Byte)
  /-- 4xkk SNE Vx,byte (R130). -/
  | sneImm (x : Reg) (kk : Byte)
  /-- 5xy0 SE Vx,Vy (R131). -/
  | seReg (x y : Reg)
  /-- 9xy0 SNE Vx,Vy (R132). -/
  | sneReg (x y : Reg)
  /-- 6xkk LD Vx,byte (R160). -/
  | ldImm (x : Reg) (kk : Byte)
  /-- 8xy0 LD Vx,Vy (R161). -/
  | ldReg (x y : Reg)
  /-- 7xkk ADD Vx,byte (R162). -/
  | addImm (x : Reg) (kk : Byte)
  /-- 8xy4 ADD Vx,Vy (R163). -/
  | addReg (x y : Reg)
  /-- 8xy1 OR Vx,Vy (R164). -/
  | or (x y : Reg)
  /-- 8xy2 AND Vx,Vy (R165). -/
  | and (x y : Reg)
  /-- 8xy3 XOR Vx,Vy (R166). -/
  | xor (x y : Reg)
  /-- 8xy5 SUB Vx,Vy (R167). -/
  | sub (x y : Reg)
  /-- 8xy6 SHR Vx, y ignored (R168, R91). -/
  | shr (x : Reg)
  /-- 8xyE SHL Vx, y ignored (R169, R91). -/
  | shl (x : Reg)
  /-- Annn LD I,addr (R201). -/
  | ldI (nnn : Addr12)
  /-- Fx1E ADD I,Vx (R202). -/
  | addI (x : Reg)
  /-- Fx29 LD I,F(Vx) (R204). -/
  | ldF (x : Reg)
  /-- Fx33 LD B,Vx (R205). -/
  | ldB (x : Reg)
  /-- Fx55 LD [I],Vx..V(last) (R206). -/
  | storeRegs (x : Reg)
  /-- Fx65 LD Vx..V(last),[I] (R207). -/
  | loadRegs (x : Reg)
  /-- Cxkk RND Vx,byte (R170). -/
  | rnd (x : Reg) (kk : Byte)
  /-- Dxyn DRW Vx,Vy,n with n = 0..15 rows (R242). -/
  | drw (x y : Reg) (n : Fin 16)
  /-- Ex9E SKP Vx (R272). -/
  | skp (x : Reg)
  /-- ExA1 SKNP Vx (R273). -/
  | sknp (x : Reg)
  /-- Fx0A LD Vx,K (R275). -/
  | waitKey (x : Reg)
  /-- Fx07 LD Vx,DT (R270). -/
  | ldVDt (x : Reg)
  /-- Fx15 LD DT,Vx (R271). -/
  | ldDtV (x : Reg)
  /-- 0nnn SYS addr, nnn other than 0E0 and 0EE (R125). -/
  | sys (nnn : Addr12)
  deriving DecidableEq, Repr

end Sys2Proof
end

