-- ==== Sys2Proof/WellFormed.lean ====
section
/-! DEFINITION. Which terms of `Instr` the hardware has: those some instruction word decodes to. The operand types hold
the field widths of R81 already; what is left is the carve-out of the SYS space (spec/30_encoding.md R87 row 32). -/

namespace Sys2Proof

/-- Row 32 of R87: "0nnn (not 00E0, 00EE)" is SYS, so SYS 0x0E0 and SYS 0x0EE are no operations. Every other term is
one, whatever its operands. -/
def Instr.wellFormed : Instr → Bool
  | .sys nnn => nnn != 0x0E0#12 && nnn != 0x0EE#12
  | .cls => true
  | .ret => true
  | .jp _ => true
  | .call _ => true
  | .seImm _ _ => true
  | .sneImm _ _ => true
  | .seReg _ _ => true
  | .sneReg _ _ => true
  | .ldImm _ _ => true
  | .ldReg _ _ => true
  | .addImm _ _ => true
  | .addReg _ _ => true
  | .or _ _ => true
  | .and _ _ => true
  | .xor _ _ => true
  | .sub _ _ => true
  | .shr _ => true
  | .shl _ => true
  | .ldI _ => true
  | .addI _ => true
  | .ldF _ => true
  | .ldB _ => true
  | .storeRegs _ => true
  | .loadRegs _ => true
  | .rnd _ _ => true
  | .drw _ _ _ => true
  | .skp _ => true
  | .sknp _ => true
  | .waitKey _ => true
  | .ldVDt _ => true
  | .ldDtV _ => true

end Sys2Proof
end

