-- ==== Sys2Proof/Decode.lean ====
section
/-! DEFINITION. The decoder of spec/30_encoding.md R86, total on all 65536 words, the byte order of R52, and the
encoder written from the encodings of R87 (it emits y = 0 for SHR and SHL, R91). -/

namespace Sys2Proof

/-- `w[hi:lo]`: "the unsigned integer formed by bits hi down to lo of w" (R9). -/
def bits (w : Word) (hi lo : Nat) : Nat := w.toNat / 2 ^ lo % 2 ^ (hi - lo + 1)

/-- Field `op` = w[15:12] (R81). -/
def opField (w : Word) : Nat := bits w 15 12

/-- Field `x` = w[11:8] (R81). -/
def xField (w : Word) : Reg := ⟨bits w 11 8, Nat.mod_lt _ (by decide)⟩

/-- Field `y` = w[7:4] (R81). -/
def yField (w : Word) : Reg := ⟨bits w 7 4, Nat.mod_lt _ (by decide)⟩

/-- Field `n` = w[3:0] (R81). -/
def nField (w : Word) : Fin 16 := ⟨bits w 3 0, Nat.mod_lt _ (by decide)⟩

/-- Field `kk` = w[7:0] (R81). -/
def kkField (w : Word) : Byte := BitVec.ofNat 8 (bits w 7 0)

/-- Field `nnn` = w[11:0] (R81). -/
def nnnField (w : Word) : Addr12 := BitVec.ofNat 12 (bits w 11 0)

/-- What the decoder answers: "The decoder either returns one of these or fails with UnknownOpcode(w)" (R85). -/
inductive Decoded where
  /-- One of the 32 operations. -/
  | op (i : Instr)
  /-- No operation, "carrying the raw 16-bit word" (R89). -/
  | unknownOpcode (w : Word)
  deriving DecidableEq, Repr

/-- The operation decoded, if there is one. -/
def Decoded.instr? : Decoded → Option Instr
  | .op i => some i
  | .unknownOpcode _ => none

/-- Family 0x0 of R86: the two fixed words, and SYS for every other (decision D4). -/
def decodeFamily0 (w : Word) : Decoded :=
  if w = 0x00E0#16 then .op .cls
  else if w = 0x00EE#16 then .op .ret
  else .op (.sys (nnnField w))

/-- Family 0x8 of R86, by `n`; SHR and SHL ignore y (decision D3). -/
def decodeFamily8 (w : Word) : Decoded :=
  match (nField w).val with
  | 0x0 => .op (.ldReg (xField w) (yField w))
  | 0x1 => .op (.or (xField w) (yField w))
  | 0x2 => .op (.and (xField w) (yField w))
  | 0x3 => .op (.xor (xField w) (yField w))
  | 0x4 => .op (.addReg (xField w) (yField w))
  | 0x5 => .op (.sub (xField w) (yField w))
  | 0x6 => .op (.shr (xField w))
  | 0xE => .op (.shl (xField w))
  | _ => .unknownOpcode w

/-- Family 0xE of R86, by `kk`. -/
def decodeFamilyE (w : Word) : Decoded :=
  match (kkField w).toNat with
  | 0x9E => .op (.skp (xField w))
  | 0xA1 => .op (.sknp (xField w))
  | _ => .unknownOpcode w

/-- Family 0xF of R86, by `kk`. -/
def decodeFamilyF (w : Word) : Decoded :=
  match (kkField w).toNat with
  | 0x07 => .op (.ldVDt (xField w))
  | 0x0A => .op (.waitKey (xField w))
  | 0x15 => .op (.ldDtV (xField w))
  | 0x1E => .op (.addI (xField w))
  | 0x29 => .op (.ldF (xField w))
  | 0x33 => .op (.ldB (xField w))
  | 0x55 => .op (.storeRegs (xField w))
  | 0x65 => .op (.loadRegs (xField w))
  | _ => .unknownOpcode w

/-- The complete decode function (R86). It "reads only the word, never machine state" (R93). -/
def decode (w : Word) : Decoded :=
  match opField w with
  | 0x0 => decodeFamily0 w
  | 0x1 => .op (.jp (nnnField w))
  | 0x2 => .op (.call (nnnField w))
  | 0x3 => .op (.seImm (xField w) (kkField w))
  | 0x4 => .op (.sneImm (xField w) (kkField w))
  | 0x5 => if (nField w).val = 0 then .op (.seReg (xField w) (yField w)) else .unknownOpcode w
  | 0x6 => .op (.ldImm (xField w) (kkField w))
  | 0x7 => .op (.addImm (xField w) (kkField w))
  | 0x8 => decodeFamily8 w
  | 0x9 => if (nField w).val = 0 then .op (.sneReg (xField w) (yField w)) else .unknownOpcode w
  | 0xA => .op (.ldI (nnnField w))
  | 0xC => .op (.rnd (xField w) (kkField w))
  | 0xD => .op (.drw (xField w) (yField w) (nField w))
  | 0xE => decodeFamilyE w
  | 0xF => decodeFamilyF w
  | _ => .unknownOpcode w

/-- Byte order (R52, R53): the byte at the lower address is the high byte of the word. -/
def wordOfBytes (hi lo : Byte) : Word := BitVec.ofNat 16 (hi.toNat * 256 + lo.toNat)

/-- A word laid out as memory stores it: the high byte first (R52). -/
def bytesOfWord (w : Word) : List Byte := [BitVec.ofNat 8 (bits w 15 8), BitVec.ofNat 8 (bits w 7 0)]

/-- Decode the first instruction of a byte string, and give back the bytes after it. `none`: fewer than the 2 bytes
that every instruction has (R80). -/
def decodeBytes : List Byte → Option (Decoded × List Byte)
  | hi :: lo :: rest => some (decode (wordOfBytes hi lo), rest)
  | [_] => none
  | [] => none

/-! ### The encoder -/

/-- Format A of R83: op:4, nnn:12. -/
def encodeA (op : Nat) (nnn : Addr12) : Word := BitVec.ofNat 16 (op * 4096 + nnn.toNat)

/-- Formats XKK and XS of R83: op:4, x:4, kk:8. -/
def encodeXKK (op : Nat) (x : Reg) (kk : Byte) : Word := BitVec.ofNat 16 (op * 4096 + x.val * 256 + kk.toNat)

/-- Formats XYS and XYN of R83: op:4, x:4, y:4, n:4. -/
def encodeXYN (op : Nat) (x y : Reg) (n : Fin 16) : Word :=
  BitVec.ofNat 16 (op * 4096 + x.val * 256 + y.val * 16 + n.val)

/-- The word of an operation, row by row of R87. For the ill-formed `sys 0x0E0` and `sys 0x0EE` it is the word of CLS
and of RET. -/
def encode : Instr → Word
  | .cls => 0x00E0#16
  | .ret => 0x00EE#16
  | .jp nnn => encodeA 0x1 nnn
  | .call nnn => encodeA 0x2 nnn
  | .seImm x kk => encodeXKK 0x3 x kk
  | .sneImm x kk => encodeXKK 0x4 x kk
  | .seReg x y => encodeXYN 0x5 x y 0x0
  | .sneReg x y => encodeXYN 0x9 x y 0x0
  | .ldImm x kk => encodeXKK 0x6 x kk
  | .ldReg x y => encodeXYN 0x8 x y 0x0
  | .addImm x kk => encodeXKK 0x7 x kk
  | .addReg x y => encodeXYN 0x8 x y 0x4
  | .or x y => encodeXYN 0x8 x y 0x1
  | .and x y => encodeXYN 0x8 x y 0x2
  | .xor x y => encodeXYN 0x8 x y 0x3
  | .sub x y => encodeXYN 0x8 x y 0x5
  | .shr x => encodeXYN 0x8 x 0 0x6
  | .shl x => encodeXYN 0x8 x 0 0xE
  | .ldI nnn => encodeA 0xA nnn
  | .addI x => encodeXKK 0xF x 0x1E#8
  | .ldF x => encodeXKK 0xF x 0x29#8
  | .ldB x => encodeXKK 0xF x 0x33#8
  | .storeRegs x => encodeXKK 0xF x 0x55#8
  | .loadRegs x => encodeXKK 0xF x 0x65#8
  | .rnd x kk => encodeXKK 0xC x kk
  | .drw x y n => encodeXYN 0xD x y n
  | .skp x => encodeXKK 0xE x 0x9E#8
  | .sknp x => encodeXKK 0xE x 0xA1#8
  | .waitKey x => encodeXKK 0xF x 0x0A#8
  | .ldVDt x => encodeXKK 0xF x 0x07#8
  | .ldDtV x => encodeXKK 0xF x 0x15#8
  | .sys nnn => encodeA 0x0 nnn

/-- The bytes of an operation as a program image holds them (R351). -/
def encodeBytes (i : Instr) : List Byte := bytesOfWord (encode i)

/-! ### The opcode table's numbering -/

/-- The instruction word that the table numbers `w` (bit 0 the least significant bit of the word, `nbits` of them). -/
def tableWord (nbits w : Nat) : Word := BitVec.ofNat 16 (w % 2 ^ nbits)

/-- What the decoder reads from the word the opcode table numbers `w`, laid out as memory stores it. -/
def decodeTableWord (nbits w : Nat) : Option Instr :=
  match decodeBytes (bytesOfWord (tableWord nbits w)) with
  | some (d, _) => d.instr?
  | none => none

end Sys2Proof
end

