-- ==== Sys2Proof/Config.lean ====
section
/-! DEFINITION. What is fixed for the machine (spec/00_scope.md R7) and the one value the spec leaves free (R8: the
random oracle). The font, the third parameter of R8, is Machine/Ops.lean's `fontTable`; the schedule is data of State. -/

namespace Sys2Proof

/-- MEM_SIZE: "4096 bytes, addresses 0x000..0xFFF" (R7, R50). -/
def Config.memSize : Nat := 4096

/-- PROG_BASE and PC_RESET (R7): where the program image is loaded and where the engine starts. -/
def Config.pcReset : Word := 0x200#16

/-- FONT_BASE (R7). -/
def Config.fontBase : Nat := 0x000

/-- FONT_GLYPH: bytes of one digit's glyph (R7). -/
def Config.glyphBytes : Nat := 5

/-- STACK_DEPTH (R7). -/
def Config.stackDepth : Nat := 16

/-- FB_BYTES (R7): 8 bytes for each of 32 rows. -/
def Config.fbBytes : Nat := 256

/-- The FREE VALUE of RND (R8, R170, decision D19): the byte the oracle gives at the n-th draw. It has no body, so no
statement can rest on the number drawn; State counts the draws. Log entry 2. -/
opaque Config.randomByte : Nat → Byte

end Sys2Proof
end

