-- ==== Sys2Proof/Machine/State.lean ====
section
/-! DEFINITION. The state of the machine (spec/10_state.md R20 to R40), as plain data, the reasons a step stops, and the
state at construction (R40). -/

namespace Sys2Proof.Machine

/-- Memory (R50) as a list of (address, byte) pairs: addresses strictly rising, below 4096, and no entry equal to what
an unlisted address reads as (`Memory.background`, Machine/Ops.lean). `Memory.wf` says so. -/
abbrev Memory := List Host.Cell

/-- The register file V0..VF (R20). -/
abbrev Regs := Vector Byte 16

/-- The framebuffer FB[0..255] (R31). -/
abbrev Frame := Vector Byte 256

/-- The key-state bitmap Key[0..15] (R29). -/
abbrev KeyMap := Vector Bool 16

/-- The second half of a key event (R30). -/
inductive KeyAction where
  /-- The key went down. -/
  | pressed
  /-- The key went up. -/
  | released
  deriving DecidableEq, Repr

/-- One event (k, p) of the key event queue (R30): "k a key code 0..15 and p ∈ pressed, released". -/
structure KeyEvent where
  /-- The key code. -/
  key : Key
  /-- Pressed or released. -/
  action : KeyAction
  deriving DecidableEq, Repr

/-- The seven fault codes of R301. Their numbers are `FaultCode.number` (Machine/Ops.lean). -/
inductive FaultCode where
  /-- Code 1, raised by the cycle when Decode fails (R302). -/
  | unknownOpcode
  /-- Code 2, raised by Fetch with pc > 0xFFE (R53). -/
  | fetchOutOfRange
  /-- Code 3, raised by LD B, LD [I], LD Vx,[I] and DRW (R55). -/
  | addressOutOfRange
  /-- Code 4, raised by CALL at sp = 16 (R304). -/
  | stackOverflow
  /-- Code 5, raised by RET at sp = 0 (R305). -/
  | stackUnderflow
  /-- Code 6, raised by ADD I,Vx with a sum above 0xFFFF (R203). -/
  | indexOverflow
  /-- Code 7, raised by SKP and SKNP with V[x] > 0xF (R274). -/
  | keyIndexOutOfRange
  deriving DecidableEq, Repr

/-- The engine's run status (R32). -/
inductive Status where
  /-- The source's single logical state "fetching at PC". -/
  | running
  /-- Suspended inside LD Vx,K with destination index x. -/
  | waitKey (x : Reg)
  /-- Terminated by the shutdown signal. -/
  | halted
  /-- Terminated by a fatal error: its code and the info R301 records. -/
  | faulted (code : FaultCode) (info : Nat)
  deriving DecidableEq, Repr

/-- One atomic step of one of the five agents of R316: what comes next in the interleaving of decision D1. -/
inductive Turn where
  /-- The engine: a cycle, or a wait step. -/
  | engine
  /-- The Timer Service: one tick (R307). -/
  | timer
  /-- The Input Bridge: it appends one event to KQ (R310). -/
  | input (e : KeyEvent)
  /-- The renderer: one whole-framebuffer read (R312). -/
  | renderer
  /-- The environment sets the shutdown flag (R313). -/
  | shutdown
  deriving DecidableEq, Repr

/-- The whole machine. Every field but the last two is a piece of state the spec names. -/
structure State where
  /-- V0..VF, 8 bits each; VF = V[15] is the flag register too (R20, R21). -/
  v : Regs
  /-- The index register I, 16 bits (R23). -/
  iReg : Word
  /-- The program counter, a 16-bit byte offset into memory (R24). -/
  pc : Word
  /-- The call stack entries S[0..15], 16 bits each (R25). -/
  stack : Vector Word 16
  /-- The stack pointer: "an integer in 0..16 that counts the entries in use" (R25). -/
  sp : Fin 17
  /-- The delay counter DT (R27). -/
  dt : Byte
  /-- The sound counter ST (R28). -/
  st : Byte
  /-- The key-state bitmap Key[0..15] (R29). -/
  keys : KeyMap
  /-- The key event queue KQ, oldest event first (R30). -/
  kq : List KeyEvent
  /-- The framebuffer FB[0..255] (R31). -/
  fb : Frame
  /-- Memory 0x000..0xFFF (R50). -/
  mem : Memory
  /-- The run status (R32). -/
  status : Status
  /-- The shutdown flag (R35). -/
  shut : Bool
  /-- MODEL'S OWN: how many bytes RND has drawn, the argument of the free value `Config.randomByte` (log entry 2). -/
  draws : Nat
  /-- MODEL'S OWN: the turns the agents take next, oldest first; when it is empty the engine takes every turn. It is the
  parameter `schedule` of R8 as data: a statement about every state is one about every interleaving (log entry 3). -/
  sched : List Turn
  deriving DecidableEq, Repr

/-- Why no further step is taken. Both are raised by `step` alone, in a state whose status is terminal: "Halted and
Faulted are terminal. No rule moves the engine out of them" (R32). A run-time fault of R301 is NOT one of these: raising
it is a next state whose status is `Status.faulted` (`raiseFault`, Machine/Ops.lean). -/
inductive Fault where
  /-- Raised by `step` when the status is Halted. Safe: the model stops, and no rule gives the machine a further step
  a program could see (log entry 4). -/
  | halted
  /-- Raised by `step` when the status is Faulted(code, info). Safe: "a fault is terminal" and "the rest of the state
  frozen" (R300, R314; log entry 4). -/
  | faulted (code : FaultCode) (info : Nat)
  deriving DecidableEq, Repr

/-- Why an instruction has no meaning in the model. -/
inductive Refusal where
  /-- Raised by `exec` for an instruction that has no meaning yet; no arm does so. Safe: the model stops where the
  hardware goes on. -/
  | notModelled (mnemonic : String)
  deriving DecidableEq, Repr

/-- The answer of a meaning or of a step. -/
abbrev Outcome := Host.Outcome State Fault Refusal

/-- The state at construction (R40), with an empty program image and the default font: everything is 0, false or empty,
but pc = 0x200 and status = Running. Memory lists nothing: an unlisted address reads as its construction value. The
model's own fields start at 0 and empty (log entries 2 and 3). -/
def State.reset : State where
  v := Vector.replicate 16 0#8
  iReg := 0#16
  pc := Config.pcReset
  stack := Vector.replicate 16 0#16
  sp := 0
  dt := 0#8
  st := 0#8
  keys := Vector.replicate 16 false
  kq := []
  fb := Vector.replicate 256 0#8
  mem := []
  status := .running
  shut := false
  draws := 0
  sched := []

end Sys2Proof.Machine
end

