-- ==== Sys2Proof/Machine/Ops.lean ====
section
/-! DEFINITION. The named operations over the state that the instructions share: field updates, memory
(spec/20_memory.md), the call stack (R25, R26), the program counter (R123), raising a fault (spec/60_exceptions.md R300)
and fetching an instruction (R53). -/

namespace Sys2Proof.Machine

/-! ### One update for each field -/

/-- Replace the register file. -/
def State.setRegFile (s : State) (v : Regs) : State := { s with v := v }

/-- Write I (R11). -/
def State.setI (s : State) (w : Word) : State := { s with iReg := w }

/-- Write pc (R11). -/
def State.setPc (s : State) (w : Word) : State := { s with pc := w }

/-- Write the call stack's entries. -/
def State.setStack (s : State) (k : Vector Word 16) : State := { s with stack := k }

/-- Write the stack pointer. -/
def State.setSp (s : State) (n : Fin 17) : State := { s with sp := n }

/-- DTWrite (R11, R306): one indivisible action. -/
def State.setDt (s : State) (b : Byte) : State := { s with dt := b }

/-- Write ST; only the timer tick does (R28). -/
def State.setSt (s : State) (b : Byte) : State := { s with st := b }

/-- Write the key-state bitmap. -/
def State.setKeys (s : State) (k : KeyMap) : State := { s with keys := k }

/-- Replace the key event queue. -/
def State.setKq (s : State) (q : List KeyEvent) : State := { s with kq := q }

/-- Replace the framebuffer: the whole of a CLS or DRW is one write access (R312). -/
def State.setFb (s : State) (f : Frame) : State := { s with fb := f }

/-- Replace memory. -/
def State.setMem (s : State) (m : Memory) : State := { s with mem := m }

/-- Write the run status. -/
def State.setStatus (s : State) (u : Status) : State := { s with status := u }

/-- Write the shutdown flag. -/
def State.setShut (s : State) (b : Bool) : State := { s with shut := b }

/-- Count one draw of the random oracle. -/
def State.setDraws (s : State) (n : Nat) : State := { s with draws := n }

/-- Replace the turns still to come. -/
def State.setSched (s : State) (ts : List Turn) : State := { s with sched := ts }

/-! ### Memory -/

/-- FONT (R8, R353): the default table, 16 glyphs of 5 bytes from address 0x000. PRESUMED: the spec gives these bytes
as general knowledge; "a claim that depends on the glyph bytes must take FONT as a premise" (log entry 1). -/
def fontTable : List Byte :=
  [0xF0#8, 0x90#8, 0x90#8, 0x90#8, 0xF0#8] ++ [0x20#8, 0x60#8, 0x20#8, 0x20#8, 0x70#8] ++
  [0xF0#8, 0x10#8, 0xF0#8, 0x80#8, 0xF0#8] ++ [0xF0#8, 0x10#8, 0xF0#8, 0x10#8, 0xF0#8] ++
  [0x90#8, 0x90#8, 0xF0#8, 0x10#8, 0x10#8] ++ [0xF0#8, 0x80#8, 0xF0#8, 0x10#8, 0xF0#8] ++
  [0xF0#8, 0x80#8, 0xF0#8, 0x90#8, 0xF0#8] ++ [0xF0#8, 0x10#8, 0x20#8, 0x40#8, 0x40#8] ++
  [0xF0#8, 0x90#8, 0xF0#8, 0x90#8, 0xF0#8] ++ [0xF0#8, 0x90#8, 0xF0#8, 0x10#8, 0xF0#8] ++
  [0xF0#8, 0x90#8, 0xF0#8, 0x90#8, 0x90#8] ++ [0xE0#8, 0x90#8, 0xE0#8, 0x90#8, 0xE0#8] ++
  [0xF0#8, 0x80#8, 0x80#8, 0x80#8, 0xF0#8] ++ [0xE0#8, 0x90#8, 0x90#8, 0x90#8, 0xE0#8] ++
  [0xF0#8, 0x80#8, 0xF0#8, 0x80#8, 0xF0#8] ++ [0xF0#8, 0x80#8, 0xF0#8, 0x80#8, 0x80#8]

/-- What an unlisted address reads as: its construction value (R40, R51), the font's byte below 0x050 and 0x00
above. -/
def Memory.background (a : Nat) : Byte := fontTable.getD a 0#8

/-- The first entry listed for an address, if there is one. -/
def Memory.lookup : Memory → Nat → Option Byte
  | [], _ => none
  | (b, w) :: m, a => if b = a then some w else Memory.lookup m a

/-- MemRead(a, 1) (R11) at an address already checked: the byte listed, else what the address reads as unlisted. -/
def Memory.read (m : Memory) (a : Nat) : Byte := (Memory.lookup m a).getD (Memory.background a)

/-- Take every entry of an address out. -/
def Memory.erase (m : Memory) (a : Nat) : Memory := m.filter fun c => c.1 != a

/-- Put an entry in its place in the rising order, over an entry of the same address. -/
def Memory.insert : Memory → Nat → Byte → Memory
  | [], a, v => [(a, v)]
  | (b, w) :: m, a, v =>
    if b < a then (b, w) :: Memory.insert m a v
    else if b = a then (a, v) :: m
    else (a, v) :: (b, w) :: m

/-- MemWrite(a, 1, v) (R11) at an address already checked; it keeps the canonical form. No range is write-protected,
the font neither (R58). -/
def Memory.write (m : Memory) (a : Nat) (v : Byte) : Memory :=
  if v = Memory.background a then Memory.erase m a else Memory.insert m a v

/-- The canonical form: addresses strictly rising, all inside 0x000..0xFFF, and no entry equal to what an unlisted
address reads as. -/
def Memory.wf : Memory → Bool
  | [] => true
  | (a, v) :: m =>
    decide (a < Config.memSize) && decide (v ≠ Memory.background a) && m.all (fun c => decide (a < c.1)) && Memory.wf m

/-- The bytes at base, base + 1, … (R200: index-relative addresses are "computed on unbounded integers"). -/
def readBytes (m : Memory) (base : Nat) : Nat → List Byte
  | 0 => []
  | n + 1 => m.read base :: readBytes m (base + 1) n

/-- MemWrite at base, base + 1, … of the bytes of a list, in this order. -/
def storeBytes (m : Memory) (base : Nat) : List Byte → Memory
  | [] => m
  | b :: bs => storeBytes (m.write base b) (base + 1) bs

/-- The range check of a block of `len` bytes at `base` (R55): the info of the fault, "lowest out-of-range address,
max(I, 0x1000)" (R301), when some address of it exceeds 0xFFF. A block of no bytes is in range (R242, decision D17). -/
def blockFault (base len : Nat) : Option Nat :=
  if 0 < len ∧ base + len - 1 > 0xFFF then some (max base 0x1000) else none

/-! ### Faults -/

/-- The numbers of the fault codes (R301). -/
def FaultCode.number : FaultCode → Nat
  | .unknownOpcode => 1
  | .fetchOutOfRange => 2
  | .addressOutOfRange => 3
  | .stackOverflow => 4
  | .stackUnderflow => 5
  | .indexOverflow => 6
  | .keyIndexOutOfRange => 7

/-- TAKING A FAULT (R300): `raise Fault(code, info)` sets status to Faulted(code, info) and "nothing else changes: every
write of the faulting operation is withheld, and pc still holds the faulting instruction's address". A meaning gives it
the state it started from. There is no handler and no return from a fault (R314), so no operation stands beside it. -/
def raiseFault (s : State) (code : FaultCode) (info : Nat) : Outcome := .next (s.setStatus (.faulted code info))

/-- Check a block at I before any of it is read or written (R55), and go on only if it is in range. -/
def withBlock (s : State) (len : Nat) (body : Outcome) : Outcome :=
  match blockFault s.iReg.toNat len with
  | some a => raiseFault s .addressOutOfRange a
  | none => body

/-! ### The program counter -/

/-- "Default program-counter advance is +2" (R123). -/
def advance (s : State) : State := s.setPc (s.pc + 2#16)

/-- The pc of a skip: +4 when it is taken, +2 when not (R123). The skipped word is never looked at. -/
def skipIf (taken : Bool) (s : State) : State := s.setPc (if taken then s.pc + 4#16 else s.pc + 2#16)

/-- `zext_16(nnn)` (R10, R84). -/
def zextAddr (nnn : Addr12) : Word := nnn.setWidth 16

/-- `pc <- zext_16(nnn)` (R84, R123). -/
def jumpTo (nnn : Addr12) (s : State) : State := s.setPc (zextAddr nnn)

/-! ### The call stack -/

/-- A push (R26): `S[sp] <- v`, then `sp <- sp + 1`. `none` at sp = 16, where there is no entry to write (R304). -/
def push (s : State) (w : Word) : Option State :=
  if h : s.sp.val < 16 then some ((s.setStack (s.stack.set s.sp.val w h)).setSp ⟨s.sp.val + 1, by omega⟩) else none

/-- A pop (R26): `sp <- sp - 1`, then read `S[sp]`, which is not cleared. `none` at sp = 0 (R305). -/
def pop (s : State) : Option (Word × State) :=
  if s.sp.val = 0 then none
  else some (s.stack[s.sp.val - 1]'(by have := s.sp.isLt; omega), s.setSp ⟨s.sp.val - 1, by have := s.sp.isLt; omega⟩)

/-! ### Fetch -/

/-- Fetch(pc) (R53): the two bytes at pc and pc + 1, the first of them the high one, at any alignment (R54). `none`
when pc > 0xFFE. -/
def fetch (s : State) : Option Word :=
  if s.pc.toNat > 0xFFE then none
  else some (wordOfBytes (s.mem.read s.pc.toNat) (s.mem.read (s.pc.toNat + 1)))

end Sys2Proof.Machine
end

