-- ==== Sys2Proof/Machine/Operands.lean ====
section
/-! DEFINITION. The operand forms (spec/30_encoding.md R84, spec/42_index_memory.md R200): a V register, the registers
V0..Vx as a block, a font address, the decimal digits, a key. -/

namespace Sys2Proof.Machine

/-- VF = V[15], the flag register (R11, R21). -/
def vf : Reg := 15

/-- `V[r]` (R11). -/
def State.readV (s : State) (r : Reg) : Byte := s.v[r.val]

/-- `V[r] <- b` (R11). No register is hardwired (R20). -/
def State.writeV (s : State) (r : Reg) (b : Byte) : State := s.setRegFile (s.v.set r.val b)

/-- The values of V0..Vx, in this order (R22). -/
def regBlock (v : Regs) (x : Reg) : List Byte := v.toList.take (x.val + 1)

/-- Write V[k], V[k+1], … from a list of bytes, in this order (R207). -/
def writeRegs (v : Regs) (k : Nat) : List Byte → Regs
  | [] => v
  | b :: bs => writeRegs (v.setIfInBounds k b) (k + 1) bs

/-- The number of registers V0..Vx and of bytes they take in memory: x + 1 (R206). -/
def blockLength (x : Reg) : Nat := x.val + 1

/-- The font offset of LD I,F(Vx): 5 × V[x], the exact product and no mask (R204). -/
def fontAddress (b : Byte) : Word := BitVec.ofNat 16 (Config.fontBase + Config.glyphBytes * b.toNat)

/-- The decimal digits of a byte, hundreds first (R205). -/
def bcdDigits (b : Byte) : List Byte :=
  [BitVec.ofNat 8 (b.toNat / 100), BitVec.ofNat 8 (b.toNat / 10 % 10), BitVec.ofNat 8 (b.toNat % 10)]

/-- `Key[k]` for the key index in a register, or none when it names no key: a value above 0xF (R274). -/
def State.keyAt (s : State) (b : Byte) : Option Bool := if h : b.toNat < 16 then some s.keys[b.toNat] else none

/-- Draw RandomByte() (R11, R170): the oracle's byte for this draw, and the draw counted. -/
def drawByte (s : State) : Byte × State := (Config.randomByte s.draws, s.setDraws (s.draws + 1))

end Sys2Proof.Machine
end

