-- ==== Sys2Proof/Machine/Flags.lean ====
section
/-! DEFINITION. The values VF takes as a flag (spec/10_state.md R33). VF is the only flag; five instructions write it:
ADD Vx,Vy, SUB, SHR, SHL and DRW. -/

namespace Sys2Proof.Machine

/-- A flag as VF holds it: 1 or 0. -/
def flagByte (b : Bool) : Byte := if b then 1#8 else 0#8

/-- The carry of ADD Vx,Vy: the sum exceeds 255 (R163). -/
def carryFlag (a b : Byte) : Byte := flagByte (decide (a.toNat + b.toNat > 255))

/-- The not-borrow of SUB Vx,Vy, strict: a > b (R167). -/
def notBorrowFlag (a b : Byte) : Byte := flagByte (decide (a.toNat > b.toNat))

/-- The bit SHR shifts out: V[x] & 1 (R168). -/
def shrFlag (a : Byte) : Byte := a &&& 1#8

/-- The bit SHL shifts out: (V[x] >> 7) & 1 (R169). -/
def shlFlag (a : Byte) : Byte := (a >>> 7) &&& 1#8

/-- `VF <- flag`. -/
def State.writeFlag (s : State) (b : Byte) : State := s.writeV vf b

end Sys2Proof.Machine
end

