-- ==== Sys2Proof/Machine/Agents.lean ====
section
/-! DEFINITION. The agents beside the engine (spec/60_exceptions.md R306 to R316) and the engine's own handling of key
events: the drain step (spec/40_sequencer.md R121) and the wait step (spec/44_timer_keys.md R276). -/

namespace Sys2Proof.Machine

/-- One counter under a tick: "if ... greater than zero, decrement it by one; otherwise leave it at zero" (R307). -/
def countDown (b : Byte) : Byte := if b.toNat > 0 then b - 1#8 else b

/-- Tick() (R307): DT and ST, one indivisible action (R306). -/
def tick (s : State) : State := (s.setDt (countDown s.dt)).setSt (countDown s.st)

/-- The Input Bridge appends an event at the tail of KQ (R310). -/
def appendEvent (e : KeyEvent) (s : State) : State := s.setKq (s.kq ++ [e])

/-- The environment sets the shutdown flag, and nothing clears it (R35, R313). -/
def signalShutdown (s : State) : State := s.setShut true

/-- A renderer read: it copies the framebuffer and changes nothing (R312). -/
def rendererRead (s : State) : State := s

/-- `Key[k] <- (p = pressed)` (R121). -/
def applyEvent (k : KeyMap) (e : KeyEvent) : KeyMap := k.set e.key.val (e.action == .pressed)

/-- Drain() (R121): every event now in KQ, in order, into the key-state bitmap. -/
def drain (s : State) : State := (s.setKeys (s.kq.foldl applyEvent s.keys)).setKq []

/-- What a wait step does with the event it takes (R276): only a press ends the wait; it sets Key[k] too, and events
behind it stay in KQ. -/
def takeWaitEvent (x : Reg) (e : KeyEvent) (rest : List KeyEvent) (s : State) : State :=
  let t := (s.setKeys (applyEvent s.keys e)).setKq rest
  match e.action with
  | .pressed => ((t.writeV x (BitVec.ofNat 8 e.key.val)).setPc (t.pc + 2#16)).setStatus .running
  | .released => t

/-- WaitStep() (R276, R277): shutdown first, then the head of KQ. With KQ empty and no shutdown "the engine has no step.
It is held" (decision D20): its turn passes and changes nothing (log entry 5). -/
def waitStep (x : Reg) (s : State) : State :=
  if s.shut then s.setStatus .halted
  else match s.kq with
    | [] => s
    | e :: rest => takeWaitEvent x e rest s

end Sys2Proof.Machine
end

