-- ==== Sys2Proof/Machine/Alu.lean ====
section
/-! DEFINITION. Register loads and the ALU (spec/41_alu.md). All have `next <- pc + 2` and none faults. Where VF is the
destination, the writes come in the order of R33 (decision D18). -/

namespace Sys2Proof.Machine

/-- LD Vx,byte (R160). -/
def execLdImm (x : Reg) (kk : Byte) (s : State) : Outcome := .next (advance (s.writeV x kk))

/-- LD Vx,Vy (R161). -/
def execLdReg (x y : Reg) (s : State) : Outcome := .next (advance (s.writeV x (s.readV y)))

/-- ADD Vx,byte (R162): modulo 256, and VF is no flag here. -/
def execAddImm (x : Reg) (kk : Byte) (s : State) : Outcome := .next (advance (s.writeV x (s.readV x + kk)))

/-- ADD Vx,Vy (R163): the sum, then the carry. -/
def execAddReg (x y : Reg) (s : State) : Outcome :=
  .next (advance ((s.writeV x (s.readV x + s.readV y)).writeFlag (carryFlag (s.readV x) (s.readV y))))

/-- OR Vx,Vy (R164): VF is unchanged unless x = F (decision D34). -/
def execOr (x y : Reg) (s : State) : Outcome := .next (advance (s.writeV x (s.readV x ||| s.readV y)))

/-- AND Vx,Vy (R165). -/
def execAnd (x y : Reg) (s : State) : Outcome := .next (advance (s.writeV x (s.readV x &&& s.readV y)))

/-- XOR Vx,Vy (R166). -/
def execXor (x y : Reg) (s : State) : Outcome := .next (advance (s.writeV x (s.readV x ^^^ s.readV y)))

/-- SUB Vx,Vy (R167): the difference, then not-borrow. -/
def execSub (x y : Reg) (s : State) : Outcome :=
  .next (advance ((s.writeV x (s.readV x - s.readV y)).writeFlag (notBorrowFlag (s.readV x) (s.readV y))))

/-- SHR Vx (R168): the flag first, then V[x] read again and shifted. -/
def execShr (x : Reg) (s : State) : Outcome :=
  let t := s.writeFlag (shrFlag (s.readV x))
  .next (advance (t.writeV x (t.readV x >>> 1)))

/-- SHL Vx (R169): the flag first, then V[x] read again and shifted. -/
def execShl (x : Reg) (s : State) : Outcome :=
  let t := s.writeFlag (shlFlag (s.readV x))
  .next (advance (t.writeV x (t.readV x <<< 1)))

/-- RND Vx,byte (R170): `V[x] <- kk & r` for the drawn byte r, a free value. -/
def execRnd (x : Reg) (kk : Byte) (s : State) : Outcome :=
  let d := drawByte s
  .next (advance (d.2.writeV x (kk &&& d.1)))

end Sys2Proof.Machine
end

