-- ==== Sys2Proof/Machine/Control.lean ====
section
/-! DEFINITION. Control transfer (spec/40_sequencer.md): SYS, JP, CALL, RET and the four comparing skips. -/

namespace Sys2Proof.Machine

/-- SYS addr (R125): "no-op (ignored)"; only pc moves. -/
def execSys (_nnn : Addr12) (s : State) : Outcome := .next (advance s)

/-- JP addr (R126). -/
def execJp (nnn : Addr12) (s : State) : Outcome := .next (jumpTo nnn s)

/-- CALL addr (R127): the CALL's own address is pushed; StackOverflow at sp = 16. -/
def execCall (nnn : Addr12) (s : State) : Outcome :=
  match push s s.pc with
  | some t => .next (jumpTo nnn t)
  | none => raiseFault s .stackOverflow s.pc.toNat

/-- RET (R128): pc is the popped address + 2; StackUnderflow at sp = 0. -/
def execRet (s : State) : Outcome :=
  match pop s with
  | some (a, t) => .next (t.setPc (a + 2#16))
  | none => raiseFault s .stackUnderflow s.pc.toNat

/-- SE Vx,byte (R129). -/
def execSeImm (x : Reg) (kk : Byte) (s : State) : Outcome := .next (skipIf (s.readV x == kk) s)

/-- SNE Vx,byte (R130). -/
def execSneImm (x : Reg) (kk : Byte) (s : State) : Outcome := .next (skipIf (s.readV x != kk) s)

/-- SE Vx,Vy (R131). -/
def execSeReg (x y : Reg) (s : State) : Outcome := .next (skipIf (s.readV x == s.readV y) s)

/-- SNE Vx,Vy (R132). -/
def execSneReg (x y : Reg) (s : State) : Outcome := .next (skipIf (s.readV x != s.readV y) s)

end Sys2Proof.Machine
end

