-- ==== Sys2Proof/Machine/Display.lean ====
section
/-! DEFINITION. The display compositor (spec/43_display.md): CLS, and DRW as an XOR blit with 1→0 collision detection.
The pixel layout is spec/10_state.md R31. -/

namespace Sys2Proof.Machine

/-- `hi` of BlitIndex (R241): the byte of the left part of sprite row k. -/
def blitHi (px py k : Nat) : Fin 256 := ⟨((py + k) * 8 + px / 8) % 256, Nat.mod_lt _ (by decide)⟩

/-- `lo` of BlitIndex (R241): the next byte, folded back into the same row. -/
def blitLo (px py k : Nat) : Fin 256 :=
  let lo := (blitHi px py k).val + 1
  ⟨(if lo % 8 = 0 then lo - 8 else lo) % 256, Nat.mod_lt _ (by decide)⟩

/-- `s` of BlitIndex (R241): the bit offset. -/
def blitShift (px : Nat) : Nat := px % 8

/-- `p_hi` of R242: the left part of a sprite byte. -/
def leftPart (b : Byte) (px : Nat) : Byte := b >>> blitShift px

/-- `p_lo` of R242: the right part, which is 0 when the offset is 0 (decision D15). -/
def rightPart (b : Byte) (px : Nat) : Byte := b <<< (8 - blitShift px)

/-- One sprite row of R242's loop: XOR both parts in, and note whether a lit pixel went out. -/
def blitRow (px py k : Nat) (b : Byte) (r : Frame × Bool) : Frame × Bool :=
  let hi := blitHi px py k
  let lo := blitLo px py k
  let hit := (r.1[hi.val] &&& leftPart b px) != 0#8 || (r.1[lo.val] &&& rightPart b px) != 0#8
  let f := r.1.set hi.val (r.1[hi.val] ^^^ leftPart b px)
  (f.set lo.val (f[lo.val] ^^^ rightPart b px), r.2 || hit)

/-- R242's loop over the sprite's bytes, from row k on. -/
def blitRows (px py : Nat) : Nat → List Byte → Frame × Bool → Frame × Bool
  | _, [], r => r
  | k, b :: bs, r => blitRows px py (k + 1) bs (blitRow px py k b r)

/-- The pixel at column c and row r: bit 7 − (c mod 8) of byte r * 8 + c div 8 (R31). The renderer reads the
framebuffer so (R312). -/
def pixel (f : Frame) (c : Fin 64) (r : Fin 32) : Bool := f[r.val * 8 + c.val / 8].getLsbD (7 - c.val % 8)

/-- CLS (R240): "Zero the framebuffer"; VF is unchanged. -/
def execCls (s : State) : Outcome := .next (advance (s.setFb (Vector.replicate 256 0#8)))

/-- DRW Vx,Vy,n (R242): the coordinates read first, the n sprite bytes from I, the blit, then VF = collision (R243). -/
def execDrw (x y : Reg) (n : Fin 16) (s : State) : Outcome :=
  withBlock s n.val
    (let r := blitRows (s.readV x).toNat (s.readV y).toNat 0 (readBytes s.mem s.iReg.toNat n.val) (s.fb, false)
     .next (advance ((s.setFb r.1).writeFlag (flagByte r.2))))

end Sys2Proof.Machine
end

