-- ==== Sys2Proof/Machine/IndexMemory.lean ====
section
/-! DEFINITION. The index register and memory transfer (spec/42_index_memory.md). None writes VF as a flag. -/

namespace Sys2Proof.Machine

/-- LD I,addr (R201). -/
def execLdI (nnn : Addr12) (s : State) : Outcome := .next (advance (s.setI (zextAddr nnn)))

/-- ADD I,Vx (R202): the exact sum; IndexOverflow above 0xFFFF (R203). -/
def execAddI (x : Reg) (s : State) : Outcome :=
  let t := s.iReg.toNat + (s.readV x).toNat
  if t > 0xFFFF then raiseFault s .indexOverflow t else .next (advance (s.setI (BitVec.ofNat 16 t)))

/-- LD I,F(Vx) (R204). -/
def execLdF (x : Reg) (s : State) : Outcome := .next (advance (s.setI (fontAddress (s.readV x))))

/-- LD B,Vx (R205): three digits at I, I + 1, I + 2; I is not changed. -/
def execLdB (x : Reg) (s : State) : Outcome :=
  withBlock s 3 (.next (advance (s.setMem (storeBytes s.mem s.iReg.toNat (bcdDigits (s.readV x))))))

/-- LD [I],Vx (R206): V0..Vx to I..I + x, then `I <- I + x + 1`. -/
def execStoreRegs (x : Reg) (s : State) : Outcome :=
  withBlock s (blockLength x)
    (.next (advance ((s.setMem (storeBytes s.mem s.iReg.toNat (regBlock s.v x))).setI
      (s.iReg + BitVec.ofNat 16 (blockLength x)))))

/-- LD Vx,[I] (R207): I..I + x to V0..Vx, then `I <- I + x + 1`. -/
def execLoadRegs (x : Reg) (s : State) : Outcome :=
  withBlock s (blockLength x)
    (.next (advance ((s.setRegFile (writeRegs s.v 0 (readBytes s.mem s.iReg.toNat (blockLength x)))).setI
      (s.iReg + BitVec.ofNat 16 (blockLength x)))))

end Sys2Proof.Machine
end

