-- ==== Sys2Proof/Machine/TimerKeys.lean ====
section
/-! DEFINITION. The delay-counter and key instructions (spec/44_timer_keys.md). The steps that follow LD Vx,K are in
Machine/Cycle.lean (`waitStep`). -/

namespace Sys2Proof.Machine

/-- LD Vx,DT (R270). -/
def execLdVDt (x : Reg) (s : State) : Outcome := .next (advance (s.writeV x s.dt))

/-- LD DT,Vx (R271). -/
def execLdDtV (x : Reg) (s : State) : Outcome := .next (advance (s.setDt (s.readV x)))

/-- SKP Vx (R272): KeyIndexOutOfRange when V[x] > 0xF (R274). -/
def execSkp (x : Reg) (s : State) : Outcome :=
  match s.keyAt (s.readV x) with
  | some down => .next (skipIf down s)
  | none => raiseFault s .keyIndexOutOfRange (s.readV x).toNat

/-- SKNP Vx (R273): KeyIndexOutOfRange when V[x] > 0xF (R274). -/
def execSknp (x : Reg) (s : State) : Outcome :=
  match s.keyAt (s.readV x) with
  | some down => .next (skipIf (!down) s)
  | none => raiseFault s .keyIndexOutOfRange (s.readV x).toNat

/-- LD Vx,K (R275): the engine enters WaitKey(x); pc is not advanced yet. -/
def execWaitKey (x : Reg) (s : State) : Outcome := .next (s.setStatus (.waitKey x))

end Sys2Proof.Machine
end

