-- ==== Sys2Proof/Machine/Cycle.lean ====
section
/-! DEFINITION. The engine's cycle (spec/40_sequencer.md R120), and the interleaving of the five agents
(spec/60_exceptions.md R316, decision D1). Machine/Step.lean's `step` is `systemStep`. -/

namespace Sys2Proof.Machine

/-- The cycle from the fetch on (R120), with the faults of fetch and of decode in the order of R303. A fault leaves the
state as it was at the start of the fetch. -/
def fetchExecute (s : State) : Outcome :=
  match fetch s with
  | none => raiseFault s .fetchOutOfRange s.pc.toNat
  | some w =>
    match decode w with
    | .unknownOpcode u => raiseFault s .unknownOpcode u.toNat
    | .op i => exec i s

/-- Cycle() (R120): the shutdown check (R122), the drain step (R121), then fetch, decode, execute. -/
def cycle (s : State) : Outcome := if s.shut then .next (s.setStatus .halted) else fetchExecute (drain s)

/-- The engine's step in each run status: a cycle, a wait step, or none (R32). -/
def engineStep (s : State) : Outcome :=
  match s.status with
  | .running => cycle s
  | .waitKey x => .next (waitStep x s)
  | .halted => .fault .halted
  | .faulted code info => .fault (.faulted code info)

/-- One agent takes its turn (R316). -/
def takeTurn (t : Turn) (s : State) : Outcome :=
  match t with
  | .engine => engineStep s
  | .timer => .next (tick s)
  | .input e => .next (appendEvent e s)
  | .renderer => .next (rendererRead s)
  | .shutdown => .next (signalShutdown s)

/-- The agent whose turn comes next: the head of the schedule, and the engine when none is listed. -/
def nextTurn (s : State) : Turn := s.sched.headD .engine

/-- One step of the whole machine: the next agent's turn, taken off the schedule. In a terminal status there is none
(R32): the machine has ended, and the timer with it (R308; log entry 4). -/
def systemStep (s : State) : Outcome :=
  match s.status with
  | .halted => .fault .halted
  | .faulted code info => .fault (.faulted code info)
  | .running => takeTurn (nextTurn s) (s.setSched s.sched.tail)
  | .waitKey _ => takeTurn (nextTurn s) (s.setSched s.sched.tail)

/-- A schedule whose first turn is the engine's, the turns listed kept behind it. -/
def engineFirst (ts : List Turn) : List Turn :=
  match ts with
  | [] => []
  | .engine :: rest => .engine :: rest
  | .timer :: rest => .engine :: .timer :: rest
  | .input e :: rest => .engine :: .input e :: rest
  | .renderer :: rest => .engine :: .renderer :: rest
  | .shutdown :: rest => .engine :: .shutdown :: rest

/-- The state whose next step fetches the word the opcode table numbers `w`: the word's bytes at pc (at 0x200 where pc is
no fetchable address), the status Running, no shutdown, and the engine's turn. It stands for a load from outside (log
entry 6). -/
def storeFetchWord (s : State) (nbits w : Nat) : State :=
  let pc := if s.pc.toNat > 0xFFE then Config.pcReset else s.pc
  ((((s.setPc pc).setMem (storeBytes s.mem pc.toNat (bytesOfWord (tableWord nbits w)))).setStatus .running).setShut
    false).setSched (engineFirst s.sched)

end Sys2Proof.Machine
end

