-- ==== Sys2Proof/Machine/Boot.lean ====
section
/-! DEFINITION. Construction (spec/70_reset_and_hazards.md R350 to R353) for any FONT and any program image: the two
parameters that place bytes in memory (spec/00_scope.md R8, R351). -/

namespace Sys2Proof.Machine

/-- The longest image that fits above 0x200: 3584 bytes (R352). -/
def maxImageBytes : Nat := Config.memSize - Config.pcReset.toNat

/-- The engine at construction (R40, R350) with this FONT at 0x000 and this image at 0x200. `none` is a load failure: an
image longer than 3584 bytes produces no engine state (R319, R352). -/
def construct (font : Vector Byte 80) (image : List Byte) : Option State :=
  if image.length > maxImageBytes then none
  else some (State.reset.setMem
    (storeBytes (storeBytes State.reset.mem Config.fontBase font.toList) Config.pcReset.toNat image))

/-- `fontTable` as the parameter FONT. -/
def defaultFont : Vector Byte 80 := ⟨fontTable.toArray, by decide⟩

end Sys2Proof.Machine
end

