-- ==== Sys2Proof/Safety.lean ====
section
/-! DEFINITION. The terms claims are made in: what a state keeps from another, the invariants of the machine, and runs
under a schedule given from outside (spec/92_eei_decisions.md D1, D21). -/

namespace Sys2Proof.Machine

/-! ### Encodings -/

/-- Every word with this primary opcode decodes to this operation of its nnn field: format A of R83. -/
def EncodedA (op : Nat) (f : Addr12 → Instr) : Prop := ∀ w, opField w = op → decode w = .op (f (nnnField w))

/-- Every word with this primary opcode decodes to this operation of its x and kk fields: format XKK. -/
def EncodedXKK (op : Nat) (f : Reg → Byte → Instr) : Prop :=
  ∀ w, opField w = op → decode w = .op (f (xField w) (kkField w))

/-- Every word with this primary opcode and this sub-opcode n decodes to this operation of its x and y fields: format
XYS. -/
def EncodedXYS (op n : Nat) (f : Reg → Reg → Instr) : Prop :=
  ∀ w, opField w = op → (nField w).val = n → decode w = .op (f (xField w) (yField w))

/-- Every word with this primary opcode and this sub-opcode kk decodes to this operation of its x field: format XS. -/
def EncodedXS (op kk : Nat) (f : Reg → Instr) : Prop :=
  ∀ w, opField w = op → (kkField w).toNat = kk → decode w = .op (f (xField w))

/-- The illegal words, family by family (R89). -/
def IllegalWord (w : Word) : Prop :=
  (opField w = 0x5 ∧ (nField w).val ≠ 0) ∨
  (opField w = 0x8 ∧ (nField w).val ∈ [0x7, 0x8, 0x9, 0xA, 0xB, 0xC, 0xD, 0xF]) ∨
  (opField w = 0x9 ∧ (nField w).val ≠ 0) ∨
  opField w = 0xB ∨
  (opField w = 0xE ∧ (kkField w).toNat ∉ [0x9E, 0xA1]) ∨
  (opField w = 0xF ∧ (kkField w).toNat ∉ [0x07, 0x0A, 0x15, 0x1E, 0x29, 0x33, 0x55, 0x65])

/-! ### What two states share -/

/-- Every register V0..VF but those listed reads the same. -/
def SameRegsExcept (written : List Reg) (s t : State) : Prop := ∀ r, r ∉ written → t.readV r = s.readV r

/-- Every byte of memory reads the same. -/
def SameMemory (s t : State) : Prop := ∀ a, t.mem.read a = s.mem.read a

/-- Every byte of memory outside `base .. base + len − 1` reads the same. -/
def SameMemoryOutside (base len : Nat) (s t : State) : Prop :=
  ∀ a, (a < base ∨ base + len ≤ a) → t.mem.read a = s.mem.read a

/-- The call stack's entries and its pointer are the same. -/
def SameStack (s t : State) : Prop := (∀ j : Fin 16, t.stack[j.val] = s.stack[j.val]) ∧ t.sp = s.sp

/-- What the agents beside the engine write, and the bitmap the engine fills from their events, are the same: ST, Key,
KQ, the shutdown flag and the turns to come. DT, which LD DT,Vx writes too, is not among them. -/
def SameAgents (s t : State) : Prop :=
  t.st = s.st ∧ t.keys = s.keys ∧ t.kq = s.kq ∧ t.shut = s.shut ∧ t.sched = s.sched

/-- The frame of an operation that writes at most the registers listed and pc: every other register, I, every byte of
memory, the stack, DT, what the agents write, the framebuffer, the run status and the count of draws are the same. -/
def FrameExceptRegs (written : List Reg) (s t : State) : Prop :=
  SameRegsExcept written s t ∧ t.iReg = s.iReg ∧ SameMemory s t ∧ SameStack s t ∧ t.dt = s.dt ∧ SameAgents s t ∧
    t.fb = s.fb ∧ t.status = s.status ∧ t.draws = s.draws

/-! ### Shapes of an operation -/

/-- From every state the operation completes, leaves `value` in V[x], moves pc to the next word and changes nothing
else. -/
def SetsRegister (i : Instr) (x : Reg) (value : State → Byte) : Prop :=
  ∀ s, ∃ t, exec i s = .next t ∧ t.readV x = value s ∧ t.pc = s.pc + 2#16 ∧ FrameExceptRegs [x] s t

/-- From every state the operation completes, skips the next word exactly when the condition holds, and changes nothing
but pc. -/
def SkipsWhen (i : Instr) (c : State → Prop) : Prop :=
  ∀ s, ∃ t, exec i s = .next t ∧ (c s → t.pc = s.pc + 4#16) ∧ (¬ c s → t.pc = s.pc + 2#16) ∧ FrameExceptRegs [] s t

/-- From every state the operation completes, leaves `value` in I, moves pc to the next word and changes nothing
else. -/
def SetsIndex (i : Instr) (value : State → Nat) : Prop :=
  ∀ s, ∃ t, exec i s = .next t ∧ t.iReg.toNat = value s ∧ t.pc = s.pc + 2#16 ∧ SameRegsExcept [] s t ∧
    SameMemory s t ∧ SameStack s t ∧ t.dt = s.dt ∧ SameAgents s t ∧ t.fb = s.fb ∧ t.status = s.status ∧
    t.draws = s.draws

/-- The state a fault leaves (R300): the status Faulted(code, info), every other field as it was. -/
def faultedState (s : State) (code : FaultCode) (info : Nat) : State := { s with status := .faulted code info }

/-- The fault an operation raises at a state, and the info recorded (R301, R303). -/
def faultOf (i : Instr) (s : State) : Option (FaultCode × Nat) :=
  match i with
  | .call _ => if s.sp.val = 16 then some (.stackOverflow, s.pc.toNat) else none
  | .ret => if s.sp.val = 0 then some (.stackUnderflow, s.pc.toNat) else none
  | .addI x =>
    if s.iReg.toNat + (s.readV x).toNat > 0xFFFF then some (.indexOverflow, s.iReg.toNat + (s.readV x).toNat) else none
  | .ldB _ => if s.iReg.toNat + 2 > 0xFFF then some (.addressOutOfRange, max s.iReg.toNat 0x1000) else none
  | .storeRegs x => if s.iReg.toNat + x.val > 0xFFF then some (.addressOutOfRange, max s.iReg.toNat 0x1000) else none
  | .loadRegs x => if s.iReg.toNat + x.val > 0xFFF then some (.addressOutOfRange, max s.iReg.toNat 0x1000) else none
  | .drw _ _ n =>
    if n.val > 0 ∧ s.iReg.toNat + n.val - 1 > 0xFFF then some (.addressOutOfRange, max s.iReg.toNat 0x1000) else none
  | .skp x => if (s.readV x).toNat > 0xF then some (.keyIndexOutOfRange, (s.readV x).toNat) else none
  | .sknp x => if (s.readV x).toNat > 0xF then some (.keyIndexOutOfRange, (s.readV x).toNat) else none
  | .cls | .jp _ | .seImm _ _ | .sneImm _ _ | .seReg _ _ | .sneReg _ _ | .ldImm _ _ | .ldReg _ _ | .addImm _ _
  | .addReg _ _ | .or _ _ | .and _ _ | .xor _ _ | .sub _ _ | .shr _ | .shl _ | .ldI _ | .ldF _ | .rnd _ _ | .waitKey _
  | .ldVDt _ | .ldDtV _ | .sys _ => none

/-- The V registers an operation's execute step writes: the column "writes" of R22. LD Vx,K writes V[x] in its wait
step. -/
def writtenRegs : Instr → List Reg
  | .ldImm x _ | .ldReg x _ | .addImm x _ | .or x _ | .and x _ | .xor x _ | .rnd x _ | .ldVDt x => [x]
  | .addReg x _ | .sub x _ | .shr x | .shl x => [x, vf]
  | .loadRegs x => (List.finRange 16).filter fun r => r.val ≤ x.val
  | .drw _ _ _ => [vf]
  | .cls | .ret | .jp _ | .call _ | .seImm _ _ | .sneImm _ _ | .seReg _ _ | .sneReg _ _ | .ldI _ | .addI _ | .ldF _
  | .ldB _ | .storeRegs _ | .skp _ | .sknp _ | .waitKey _ | .ldDtV _ | .sys _ => []

/-- The sprite of DRW Vx,Vy,n covers the pixel at column c and row r (R244): some row k and bit j of the n bytes at I,
j = 0 the leftmost, is set and lands there. -/
def SpriteCovers (s : State) (x y : Reg) (n : Fin 16) (c : Fin 64) (r : Fin 32) : Prop :=
  ∃ k j, k < n.val ∧ j < 8 ∧ (s.mem.read (s.iReg.toNat + k)).getLsbD (7 - j) = true ∧
    c.val = ((s.readV x).toNat % 64 + j) % 64 ∧
    r.val = ((s.readV y).toNat + k + (s.readV x).toNat / 64) % 32

/-- Nested calls: each target's CALL executed in turn. -/
def callAll : List Addr12 → State → Option State
  | [], s => some s
  | a :: as, s =>
    match exec (.call a) s with
    | .next t => callAll as t
    | .fault _ => none
    | .refused _ => none

/-- A number of RETs executed in turn. -/
def retAll : Nat → State → Option State
  | 0, s => some s
  | n + 1, s =>
    match exec .ret s with
    | .next t => retAll n t
    | .fault _ => none
    | .refused _ => none

/-! ### Invariants -/

/-- pc is at most 0x1002, and while the engine waits for a key at most 0xFFE: R124's bounds on every pc and on that of an
executed instruction. -/
def PcInRange (s : State) : Prop :=
  s.pc.toNat ≤ 0x1002 ∧ ∀ x, s.status = .waitKey x → s.pc.toNat ≤ 0xFFE

/-- Every entry in use is at most 0xFFE: R124's bound on the address of an executed CALL. -/
def StackInRange (s : State) : Prop := ∀ j : Fin 16, j.val < s.sp.val → (s.stack[j.val]).toNat ≤ 0xFFE

/-- The invariant of the machine: memory in its canonical form, and R124's bounds on pc and on the call stack. -/
def Inv (s : State) : Prop := s.mem.wf = true ∧ PcInRange s ∧ StackInRange s

/-! ### Schedules -/

/-- A schedule of R8 as an infinite sequence: whose turn the n-th is. -/
abbrev Schedule := Nat → Turn

/-- The fairness of R308: "in every infinite run, infinitely many ticks occur". -/
def Schedule.fair (f : Schedule) : Prop := ∀ n, ∃ m, n ≤ m ∧ f m = .timer

/-- One step in which a given agent takes its turn, whatever the state's own list says. -/
def stepTurn (t : Turn) (s : State) : Outcome := step (s.setSched (t :: s.sched))

/-- The state after n steps under a schedule, where the machine has not ended before. -/
def runSchedule (f : Schedule) : Nat → State → Option State
  | 0, s => some s
  | n + 1, s =>
    match runSchedule f n s with
    | none => none
    | some t =>
      match stepTurn (f n) t with
      | .next u => some u
      | .fault _ => none
      | .refused _ => none

/-- The engine alone takes every turn. -/
def engineOnly : Schedule := fun _ => .engine

/-- The timer alone takes every turn. -/
def timerOnly : Schedule := fun _ => .timer

/-- A status that is not terminal: "Halted and Faulted are terminal" (R32). -/
def Status.live : Status → Bool
  | .running => true
  | .waitKey _ => true
  | .halted => false
  | .faulted _ _ => false

/-- The operation this step executes: the engine has the turn, in status Running and with no shutdown, and the word at pc
decodes to it. -/
def Executes (s : State) (i : Instr) : Prop :=
  nextTurn s = .engine ∧ s.status = .running ∧ s.shut = false ∧ s.pc.toNat ≤ 0xFFE ∧
    decode (wordOfBytes (s.mem.read s.pc.toNat) (s.mem.read (s.pc.toNat + 1))) = .op i

end Sys2Proof.Machine
end

