-- ==== Sys2Proof/Certificates/Slice0/Obligations.lean ====
section
/-! DEFINITION. The statements for the provers. Each docstring names the rule of spec/ that its statement formalises.
They hold for every state, so for every FONT, every image, every schedule and every random draw. A decision
D<n> is one of spec/92_eei_decisions.md, the spec's own choice (log entry 8); every frame (what stays unchanged) rests on
its decision D34. -/

open Sys2Proof Sys2Proof.Machine

/-! ### Encodings -/

/-- Decoding the word of a well-formed operation gives it back, every operand at every value (R86, R87). The spec's
own decisions D3, D4. -/
def Obligations.DecodeOfEncodeIsTheOperation : Prop := ∀ i : Instr, i.wellFormed = true → decode (encode i) = .op i

/-- What the decoder gives is well-formed, and its word is the word decoded, but for SHR and SHL, whose ignored y
field the encoder leaves 0 (R91). The spec's own decisions D3, D4. -/
def Obligations.EncodeOfDecodeIsTheWord : Prop :=
  ∀ (w : Word) (i : Instr), decode w = .op i →
    i.wellFormed = true ∧
    encode i = (match i with
      | .shr _ => w &&& 0xFF0F#16
      | .shl _ => w &&& 0xFF0F#16
      | _ => w)

/-- Exactly the words that R89 lists decode to UnknownOpcode, which carries the word. The spec's own decisions D3,
D5. -/
def Obligations.IllegalWordsAreUnknownOpcode : Prop :=
  ∀ w u : Word, decode w = .unknownOpcode u ↔ IllegalWord w ∧ u = w

/-- The bytes of an operation, followed by any others, decode to it and leave the others (R52, R80). -/
def Obligations.DecodeOfImageBytes : Prop :=
  ∀ (i : Instr) (rest : List Byte), i.wellFormed = true → decodeBytes (encodeBytes i ++ rest) = some (.op i, rest)

/-- Words of ten opcode families, written out from R87: the source's own two examples first. -/
def Obligations.WrittenWordsDecode : Prop :=
  decode 0xA123#16 = .op (.ldI 0x123#12) ∧ decode 0x8274#16 = .op (.addReg 2 7) ∧
  decode 0x00E0#16 = .op .cls ∧ decode 0x1ABC#16 = .op (.jp 0xABC#12) ∧ decode 0x3A55#16 = .op (.seImm 0xA 0x55#8) ∧
  decode 0x5120#16 = .op (.seReg 1 2) ∧ decode 0xC10F#16 = .op (.rnd 1 0x0F#8) ∧
  decode 0xD125#16 = .op (.drw 1 2 5) ∧ decode 0xE5A1#16 = .op (.sknp 5) ∧ decode 0xF365#16 = .op (.loadRegs 3)

/-! ### Register loads and the ALU -/

/-- LD Vx,byte and LD Vx,Vy (R160, R161). The spec's own decision D34. -/
def Obligations.LoadsSetOneRegister : Prop :=
  EncodedXKK 0x6 .ldImm ∧ EncodedXYS 0x8 0x0 .ldReg ∧
  (∀ x kk, SetsRegister (.ldImm x kk) x fun _ => kk) ∧ (∀ x y, SetsRegister (.ldReg x y) x fun s => s.readV y)

/-- ADD Vx,byte wraps modulo 256 and writes no flag (R162). The spec's own decision D34. -/
def Obligations.AddImmediateWrapsWithoutFlag : Prop :=
  EncodedXKK 0x7 .addImm ∧
  ∀ x kk, SetsRegister (.addImm x kk) x fun s => BitVec.ofNat 8 (((s.readV x).toNat + kk.toNat) % 256)

/-- ADD Vx,Vy: the wrapped sum in V[x] and the carry in VF, which wins when x = F (R163). The spec's own decisions
D18, D34. -/
def Obligations.AddRegisterSetsCarry : Prop :=
  EncodedXYS 0x8 0x4 .addReg ∧
  ∀ (x y : Reg) (s : State), ∃ t, exec (.addReg x y) s = .next t ∧
    (x ≠ vf → (t.readV x).toNat = ((s.readV x).toNat + (s.readV y).toNat) % 256) ∧
    t.readV vf = (if (s.readV x).toNat + (s.readV y).toNat > 255 then 1#8 else 0#8) ∧
    t.pc = s.pc + 2#16 ∧ FrameExceptRegs [x, vf] s t

/-- OR, AND and XOR write V[x] alone: VF is unchanged unless x = F (R164, R165, R166). The spec's own decision D34. -/
def Obligations.LogicSetsOneRegister : Prop :=
  EncodedXYS 0x8 0x1 .or ∧ EncodedXYS 0x8 0x2 .and ∧ EncodedXYS 0x8 0x3 .xor ∧
  ∀ x y, SetsRegister (.or x y) x (fun s => s.readV x ||| s.readV y) ∧
    SetsRegister (.and x y) x (fun s => s.readV x &&& s.readV y) ∧
    SetsRegister (.xor x y) x (fun s => s.readV x ^^^ s.readV y)

/-- SUB Vx,Vy: the wrapped difference in V[x] and the strict not-borrow in VF, which wins when x = F (R167). The
spec's own decisions D18, D34. -/
def Obligations.SubtractSetsStrictNotBorrow : Prop :=
  EncodedXYS 0x8 0x5 .sub ∧
  ∀ (x y : Reg) (s : State), ∃ t, exec (.sub x y) s = .next t ∧
    (x ≠ vf → (t.readV x).toNat = ((s.readV x).toNat + 256 - (s.readV y).toNat) % 256) ∧
    t.readV vf = (if (s.readV x).toNat > (s.readV y).toNat then 1#8 else 0#8) ∧
    t.pc = s.pc + 2#16 ∧ FrameExceptRegs [x, vf] s t

/-- SHR Vx: the bit shifted out in VF, then the shift; with x = F the result is 0 (R168). Every y encodes it. The
spec's own decisions D3, D18, D34. -/
def Obligations.ShiftRightSetsFlagFirst : Prop :=
  EncodedXYS 0x8 0x6 (fun x _ => .shr x) ∧
  ∀ (x : Reg) (s : State), ∃ t, exec (.shr x) s = .next t ∧
    (x ≠ vf → (t.readV x).toNat = (s.readV x).toNat / 2) ∧
    t.readV vf = (if x = vf then 0#8 else BitVec.ofNat 8 ((s.readV x).toNat % 2)) ∧
    t.pc = s.pc + 2#16 ∧ FrameExceptRegs [x, vf] s t

/-- SHL Vx: the bit shifted out in VF, then the shift; with x = F the result is twice the old bit 7 (R169). Every y
encodes it. The spec's own decisions D3, D18, D34. -/
def Obligations.ShiftLeftSetsFlagFirst : Prop :=
  EncodedXYS 0x8 0xE (fun x _ => .shl x) ∧
  ∀ (x : Reg) (s : State), ∃ t, exec (.shl x) s = .next t ∧
    (x ≠ vf → (t.readV x).toNat = (s.readV x).toNat * 2 % 256) ∧
    t.readV vf = BitVec.ofNat 8 (if x = vf then 2 * ((s.readV x).toNat / 128) else (s.readV x).toNat / 128) ∧
    t.pc = s.pc + 2#16 ∧ FrameExceptRegs [x, vf] s t

/-- RND Vx,byte: V[x] is kk masked with the byte drawn, whatever byte that is; its set bits are a subset of kk's, and
every execution draws anew (R170). The byte drawn is the model's free value (log entry 2). The spec's own decisions
D19, D34. -/
def Obligations.RandomIsMaskedDraw : Prop :=
  EncodedXKK 0xC .rnd ∧
  ∀ (x : Reg) (kk : Byte) (s : State), ∃ t, exec (.rnd x kk) s = .next t ∧
    t.readV x = (kk &&& Config.randomByte s.draws) ∧ (t.readV x &&& ~~~kk) = 0#8 ∧ t.draws = s.draws + 1 ∧
    t.pc = s.pc + 2#16 ∧ SameRegsExcept [x] s t ∧ t.iReg = s.iReg ∧ SameMemory s t ∧ SameStack s t ∧ t.dt = s.dt ∧
    SameAgents s t ∧ t.fb = s.fb ∧ t.status = s.status

/-! ### Control transfer -/

/-- SYS changes nothing but pc (R125). The spec's own decision D4. -/
def Obligations.SysIsNoOperation : Prop :=
  (∀ w, opField w = 0x0 → w ≠ 0x00E0#16 → w ≠ 0x00EE#16 → decode w = .op (.sys (nnnField w))) ∧
  ∀ (nnn : Addr12) (s : State), ∃ t, exec (.sys nnn) s = .next t ∧ t.pc = s.pc + 2#16 ∧ FrameExceptRegs [] s t

/-- JP sets pc to nnn and changes nothing else (R126). The spec's own decision D34. -/
def Obligations.JumpSetsPc : Prop :=
  EncodedA 0x1 .jp ∧
  ∀ (nnn : Addr12) (s : State), ∃ t, exec (.jp nnn) s = .next t ∧ t.pc.toNat = nnn.toNat ∧ FrameExceptRegs [] s t

/-- CALL pushes its own address and jumps; at sp = 16 it raises StackOverflow and writes nothing (R127, R304). The
spec's own decisions D9, D10, D24, D31, D32. -/
def Obligations.CallPushesItsOwnAddress : Prop :=
  EncodedA 0x2 .call ∧
  ∀ (nnn : Addr12) (s : State),
    (s.sp.val < 16 → ∃ t, exec (.call nnn) s = .next t ∧
      (∀ j : Fin 16, t.stack[j.val] = if j.val = s.sp.val then s.pc else s.stack[j.val]) ∧
      t.sp.val = s.sp.val + 1 ∧ t.pc.toNat = nnn.toNat ∧ SameRegsExcept [] s t ∧ t.iReg = s.iReg ∧ SameMemory s t ∧
      t.dt = s.dt ∧ SameAgents s t ∧ t.fb = s.fb ∧ t.status = s.status ∧ t.draws = s.draws) ∧
    (s.sp.val = 16 → exec (.call nnn) s = .next (faultedState s .stackOverflow s.pc.toNat))

/-- RET pops an address and goes on two bytes after it, the entry left in place; at sp = 0 it raises StackUnderflow
(R128, R305). The spec's own decisions D9, D11, D24. -/
def Obligations.ReturnGoesPastTheCall : Prop :=
  decode 0x00EE#16 = .op .ret ∧
  ∀ s : State,
    (∀ j : Fin 16, s.sp.val = j.val + 1 → ∃ t, exec .ret s = .next t ∧ t.sp.val = j.val ∧
      t.pc = s.stack[j.val] + 2#16 ∧ (∀ k : Fin 16, t.stack[k.val] = s.stack[k.val]) ∧ SameRegsExcept [] s t ∧
      t.iReg = s.iReg ∧ SameMemory s t ∧ t.dt = s.dt ∧ SameAgents s t ∧ t.fb = s.fb ∧ t.status = s.status ∧
      t.draws = s.draws) ∧
    (s.sp.val = 0 → exec .ret s = .next (faultedState s .stackUnderflow s.pc.toNat))

/-- Calls nested to any depth the stack has room for, then as many returns: pc is past the first CALL and sp is what it
was (R128: "restores PC to the call-site address + 2, and leaves the stack pointer unchanged"). The spec's own
decisions D9, D31. -/
def Obligations.NestedCallsUnwind : Prop :=
  ∀ (first : Addr12) (more : List Addr12) (s : State), s.sp.val + more.length + 1 ≤ 16 →
    ∃ t u, callAll (first :: more) s = some t ∧ t.sp.val = s.sp.val + more.length + 1 ∧
      retAll (more.length + 1) t = some u ∧ u.pc = s.pc + 2#16 ∧ u.sp = s.sp ∧ SameRegsExcept [] s u ∧
      SameMemory s u ∧ u.iReg = s.iReg ∧ u.fb = s.fb ∧ u.status = s.status

/-- The four comparing skips: +4 when the condition holds, +2 when not, and nothing but pc changes (R129 to R132).
The spec's own decision D34. -/
def Obligations.ComparingSkips : Prop :=
  EncodedXKK 0x3 .seImm ∧ EncodedXKK 0x4 .sneImm ∧ EncodedXYS 0x5 0x0 .seReg ∧ EncodedXYS 0x9 0x0 .sneReg ∧
  (∀ x kk, SkipsWhen (.seImm x kk) fun s => s.readV x = kk) ∧
  (∀ x kk, SkipsWhen (.sneImm x kk) fun s => s.readV x ≠ kk) ∧
  (∀ x y, SkipsWhen (.seReg x y) fun s => s.readV x = s.readV y) ∧
  (∀ x y, SkipsWhen (.sneReg x y) fun s => s.readV x ≠ s.readV y)

/-! ### The index register and memory -/

/-- LD I,addr and LD I,F(Vx): the address, and 5 × V[x] with no mask (R201, R204). The spec's own decisions D13, D34. -/
def Obligations.IndexLoads : Prop :=
  EncodedA 0xA .ldI ∧ EncodedXS 0xF 0x29 .ldF ∧ (∀ nnn, SetsIndex (.ldI nnn) fun _ => nnn.toNat) ∧
  (∀ x, SetsIndex (.ldF x) fun s => 5 * (s.readV x).toNat)

/-- ADD I,Vx: the exact sum up to 0xFFFF, VF unchanged; above it IndexOverflow with the sum, and I unchanged (R202).
The spec's own decisions D12, D24, D34. -/
def Obligations.AddToIndexOrOverflow : Prop :=
  EncodedXS 0xF 0x1E .addI ∧
  ∀ (x : Reg) (s : State),
    (s.iReg.toNat + (s.readV x).toNat ≤ 0xFFFF → ∃ t, exec (.addI x) s = .next t ∧
      t.iReg.toNat = s.iReg.toNat + (s.readV x).toNat ∧ t.pc = s.pc + 2#16 ∧ SameRegsExcept [] s t ∧ SameMemory s t ∧
      SameStack s t ∧ t.dt = s.dt ∧ SameAgents s t ∧ t.fb = s.fb ∧ t.status = s.status ∧ t.draws = s.draws) ∧
    (0xFFFF < s.iReg.toNat + (s.readV x).toNat →
      exec (.addI x) s = .next (faultedState s .indexOverflow (s.iReg.toNat + (s.readV x).toNat)))

/-- LD B,Vx: the three digits at I, I + 1, I + 2, I unchanged, no other byte of memory touched; when I + 2 exceeds
0xFFF the fault, and nothing written (R205). The spec's own decisions D6, D24, D34. -/
def Obligations.DecimalStore : Prop :=
  EncodedXS 0xF 0x33 .ldB ∧
  ∀ (x : Reg) (s : State),
    (s.iReg.toNat + 2 ≤ 0xFFF → ∃ t, exec (.ldB x) s = .next t ∧
      (t.mem.read s.iReg.toNat).toNat = (s.readV x).toNat / 100 ∧
      (t.mem.read (s.iReg.toNat + 1)).toNat = (s.readV x).toNat / 10 % 10 ∧
      (t.mem.read (s.iReg.toNat + 2)).toNat = (s.readV x).toNat % 10 ∧
      SameMemoryOutside s.iReg.toNat 3 s t ∧ t.pc = s.pc + 2#16 ∧ SameRegsExcept [] s t ∧ t.iReg = s.iReg ∧
      SameStack s t ∧ t.dt = s.dt ∧ SameAgents s t ∧ t.fb = s.fb ∧ t.status = s.status ∧ t.draws = s.draws) ∧
    (0xFFF < s.iReg.toNat + 2 →
      exec (.ldB x) s = .next (faultedState s .addressOutOfRange (max s.iReg.toNat 0x1000)))

/-- LD [I],Vx: V0..Vx at I..I + x, no other byte touched, I moved past them; the fault when I + x exceeds 0xFFF
(R206). The spec's own decisions D6, D24, D34. -/
def Obligations.BlockStore : Prop :=
  EncodedXS 0xF 0x55 .storeRegs ∧
  ∀ (x : Reg) (s : State),
    (s.iReg.toNat + x.val ≤ 0xFFF → ∃ t, exec (.storeRegs x) s = .next t ∧
      (∀ k : Reg, k.val ≤ x.val → t.mem.read (s.iReg.toNat + k.val) = s.readV k) ∧
      SameMemoryOutside s.iReg.toNat (x.val + 1) s t ∧ t.iReg.toNat = s.iReg.toNat + x.val + 1 ∧ t.pc = s.pc + 2#16 ∧
      SameRegsExcept [] s t ∧ SameStack s t ∧ t.dt = s.dt ∧ SameAgents s t ∧ t.fb = s.fb ∧ t.status = s.status ∧
      t.draws = s.draws) ∧
    (0xFFF < s.iReg.toNat + x.val →
      exec (.storeRegs x) s = .next (faultedState s .addressOutOfRange (max s.iReg.toNat 0x1000)))

/-- LD Vx,[I]: I..I + x to V0..Vx, the registers above Vx and all memory unchanged, I moved past them; the fault when
I + x exceeds 0xFFF (R207). The spec's own decisions D6, D24, D34. -/
def Obligations.BlockLoad : Prop :=
  EncodedXS 0xF 0x65 .loadRegs ∧
  ∀ (x : Reg) (s : State),
    (s.iReg.toNat + x.val ≤ 0xFFF → ∃ t, exec (.loadRegs x) s = .next t ∧
      (∀ k : Reg, t.readV k = if k.val ≤ x.val then s.mem.read (s.iReg.toNat + k.val) else s.readV k) ∧
      t.iReg.toNat = s.iReg.toNat + x.val + 1 ∧ t.pc = s.pc + 2#16 ∧ SameMemory s t ∧ SameStack s t ∧ t.dt = s.dt ∧
      SameAgents s t ∧ t.fb = s.fb ∧ t.status = s.status ∧ t.draws = s.draws) ∧
    (0xFFF < s.iReg.toNat + x.val →
      exec (.loadRegs x) s = .next (faultedState s .addressOutOfRange (max s.iReg.toNat 0x1000)))

/-- Registers stored as a block and loaded back from it, whatever happened to them between (R206, R207). The spec's
own decision D6. -/
def Obligations.BlockLoadUndoesBlockStore : Prop :=
  ∀ (x : Reg) (s u : State), s.iReg.toNat + x.val ≤ 0xFFF → u.iReg = s.iReg →
    ∃ t, exec (.storeRegs x) s = .next t ∧
      (SameMemory t u → ∃ w, exec (.loadRegs x) u = .next w ∧ ∀ k : Reg, k.val ≤ x.val → w.readV k = s.readV k)

/-- A block store is seen by the very next fetch from the bytes stored, at any alignment (R54, R63). The spec's own
decisions D7, D8. -/
def Obligations.StoredRegistersAreFetched : Prop :=
  ∀ (x k l : Reg) (s : State), s.iReg.toNat + x.val ≤ 0xFFF → l.val = k.val + 1 → l.val ≤ x.val →
    ∃ t, exec (.storeRegs x) s = .next t ∧
      ∀ u : State, SameMemory t u → u.pc.toNat = s.iReg.toNat + k.val →
        fetch u = some (wordOfBytes (s.readV k) (s.readV l))

/-- Two memories in canonical form that read the same everywhere are the same list (log entry 7). -/
def Obligations.CanonicalMemoryIsUnique : Prop :=
  ∀ m n : Memory, m.wf = true → n.wf = true → (∀ a, m.read a = n.read a) → m = n

/-! ### The display -/

/-- CLS zeroes the framebuffer and leaves VF and everything else (R240). The spec's own decision D34. -/
def Obligations.ClearScreenZeroesFramebuffer : Prop :=
  decode 0x00E0#16 = .op .cls ∧
  ∀ s : State, ∃ t, exec .cls s = .next t ∧ (∀ j : Fin 256, t.fb[j.val] = 0#8) ∧ t.pc = s.pc + 2#16 ∧
    SameRegsExcept [] s t ∧ t.iReg = s.iReg ∧ SameMemory s t ∧ SameStack s t ∧ t.dt = s.dt ∧ SameAgents s t ∧
    t.status = s.status ∧ t.draws = s.draws

/-- The pixel-level rule of DRW (R244): exactly the pixels under a set bit of the sprite are inverted, on a torus of
64 × 32 with the row moved by px div 64, and VF = 1 exactly when one of them was lit. The spec's own decisions D15,
D16, D17. -/
def Obligations.DrawInvertsTheSpritePixels : Prop :=
  ∀ (x y : Reg) (n : Fin 16) (s : State), n.val = 0 ∨ s.iReg.toNat + n.val - 1 ≤ 0xFFF →
    ∃ t, exec (.drw x y n) s = .next t ∧
      (∀ (c : Fin 64) (r : Fin 32), pixel t.fb c r ≠ pixel s.fb c r ↔ SpriteCovers s x y n c r) ∧
      ((∃ (c : Fin 64) (r : Fin 32), SpriteCovers s x y n c r ∧ pixel s.fb c r = true) → t.readV vf = 1#8) ∧
      ((¬ ∃ (c : Fin 64) (r : Fin 32), SpriteCovers s x y n c r ∧ pixel s.fb c r = true) → t.readV vf = 0#8)

/-- DRW at the level of framebuffer bytes (R241, R242): row k XORs its two parts into the bytes hi and lo, no other
byte changes, VF is the collision, and nothing but FB, VF and pc changes; the fault when a sprite byte lies above
0xFFF. The spec's own decisions D6, D15, D16, D17, D24, D34. -/
def Obligations.DrawBlitsTheSpriteRows : Prop :=
  (∀ w, opField w = 0xD → decode w = .op (.drw (xField w) (yField w) (nField w))) ∧
  ∀ (x y : Reg) (n : Fin 16) (s : State),
    (n.val = 0 ∨ s.iReg.toNat + n.val - 1 ≤ 0xFFF → ∃ t, exec (.drw x y n) s = .next t ∧
      (∀ (j : Fin 256) (k : Nat), k < n.val → j = blitHi (s.readV x).toNat (s.readV y).toNat k →
        t.fb[j.val] = s.fb[j.val] ^^^ (s.mem.read (s.iReg.toNat + k) >>> ((s.readV x).toNat % 8))) ∧
      (∀ (j : Fin 256) (k : Nat), k < n.val → j = blitLo (s.readV x).toNat (s.readV y).toNat k →
        t.fb[j.val] = s.fb[j.val] ^^^ (s.mem.read (s.iReg.toNat + k) <<< (8 - (s.readV x).toNat % 8))) ∧
      (∀ j : Fin 256, (∀ k, k < n.val → j ≠ blitHi (s.readV x).toNat (s.readV y).toNat k ∧
        j ≠ blitLo (s.readV x).toNat (s.readV y).toNat k) → t.fb[j.val] = s.fb[j.val]) ∧
      (t.readV vf = 0#8 ∨ t.readV vf = 1#8) ∧
      (t.readV vf = 1#8 ↔ ∃ j : Fin 256, s.fb[j.val] &&& ~~~t.fb[j.val] ≠ 0#8) ∧
      t.pc = s.pc + 2#16 ∧ SameRegsExcept [vf] s t ∧ t.iReg = s.iReg ∧ SameMemory s t ∧ SameStack s t ∧ t.dt = s.dt ∧
      SameAgents s t ∧ t.status = s.status ∧ t.draws = s.draws) ∧
    (0 < n.val → 0xFFF < s.iReg.toNat + n.val - 1 →
      exec (.drw x y n) s = .next (faultedState s .addressOutOfRange (max s.iReg.toNat 0x1000)))

/-- The byte `lo` of R241: the one after `hi`, folded back by 8 exactly when `hi` ends its row of 8; always another
byte of the same row. The spec's own decision D16. -/
def Obligations.BlitStaysInTheRow : Prop :=
  ∀ px py k : Nat,
    (blitHi px py k).val = ((py + k) * 8 + px / 8) % 256 ∧
    (blitLo px py k).val =
      (if (blitHi px py k).val % 8 = 7 then (blitHi px py k).val - 7 else (blitHi px py k).val + 1) ∧
    (blitLo px py k).val / 8 = (blitHi px py k).val / 8 ∧ blitLo px py k ≠ blitHi px py k

/-- The same sprite drawn twice at the same place leaves the framebuffer as it was, whatever ran between the two
draws (R242: "XORed into the existing bits"). The spec's own decisions D15, D16, D17. -/
def Obligations.DrawingTwiceErases : Prop :=
  ∀ (x y : Reg) (n : Fin 16) (s u : State), n.val = 0 ∨ s.iReg.toNat + n.val - 1 ≤ 0xFFF →
    u.iReg = s.iReg → u.readV x = s.readV x → u.readV y = s.readV y → SameMemory s u →
    ∃ t, exec (.drw x y n) s = .next t ∧
      (u.fb = t.fb → ∃ w, exec (.drw x y n) u = .next w ∧ w.fb = s.fb)

/-! ### The delay counter and the keys -/

/-- LD Vx,DT reads DT and LD DT,Vx writes it; nothing else changes (R270, R271). The spec's own decisions D21, D34. -/
def Obligations.DelayCounterTransfers : Prop :=
  EncodedXS 0xF 0x07 .ldVDt ∧ EncodedXS 0xF 0x15 .ldDtV ∧ (∀ x, SetsRegister (.ldVDt x) x fun s => s.dt) ∧
  ∀ (x : Reg) (s : State), ∃ t, exec (.ldDtV x) s = .next t ∧ t.dt = s.readV x ∧ t.pc = s.pc + 2#16 ∧
    SameRegsExcept [] s t ∧ t.iReg = s.iReg ∧ SameMemory s t ∧ SameStack s t ∧ SameAgents s t ∧ t.fb = s.fb ∧
    t.status = s.status ∧ t.draws = s.draws

/-- SKP and SKNP skip on the key that V[x] names, and fault when it names none (R272, R273, R274). The spec's own
decisions D14, D24. -/
def Obligations.KeySkips : Prop :=
  EncodedXS 0xE 0x9E .skp ∧ EncodedXS 0xE 0xA1 .sknp ∧
  ∀ (x : Reg) (s : State),
    (∀ k : Key, (s.readV x).toNat = k.val →
      (∃ t, exec (.skp x) s = .next t ∧ t.pc = (if s.keys[k.val] = true then s.pc + 4#16 else s.pc + 2#16) ∧
        FrameExceptRegs [] s t) ∧
      (∃ t, exec (.sknp x) s = .next t ∧ t.pc = (if s.keys[k.val] = true then s.pc + 2#16 else s.pc + 4#16) ∧
        FrameExceptRegs [] s t)) ∧
    (0xF < (s.readV x).toNat →
      exec (.skp x) s = .next (faultedState s .keyIndexOutOfRange (s.readV x).toNat) ∧
      exec (.sknp x) s = .next (faultedState s .keyIndexOutOfRange (s.readV x).toNat))

/-- LD Vx,K enters WaitKey(x) and changes nothing else: pc is not advanced yet (R275). The spec's own decisions D20,
D34. -/
def Obligations.KeyWaitBegins : Prop :=
  EncodedXS 0xF 0x0A .waitKey ∧
  ∀ (x : Reg) (s : State), ∃ t, exec (.waitKey x) s = .next t ∧ t.status = .waitKey x ∧ t.pc = s.pc ∧
    SameRegsExcept [] s t ∧ t.iReg = s.iReg ∧ SameMemory s t ∧ SameStack s t ∧ t.dt = s.dt ∧ SameAgents s t ∧
    t.fb = s.fb ∧ t.draws = s.draws

/-- A release at the head of the queue, a press behind it or none, clears its key and leaves the engine waiting at the
same pc. The wait takes the releases before the first press, ends at that press, and leaves the events behind it queued
(R276). The spec's own decision D20. -/
def Obligations.KeyWaitEndsAtTheFirstPress : Prop :=
  (∀ (x : Reg) (k : Key) (rest : List KeyEvent) (s : State), s.status = .waitKey x → s.shut = false →
    nextTurn s = .engine → s.kq = ⟨k, .released⟩ :: rest →
    ∃ t, step s = .next t ∧ (∀ j : Key, t.keys[j.val] = if j = k then false else s.keys[j.val]) ∧ t.kq = rest ∧
      t.status = .waitKey x ∧ t.pc = s.pc ∧ t = { s with keys := t.keys, kq := rest, sched := s.sched.tail }) ∧
  ∀ (x : Reg) (k : Key) (releases rest : List KeyEvent) (s : State), s.status = .waitKey x → s.shut = false →
    (∀ e ∈ releases, e.action = .released) → s.kq = releases ++ ⟨k, .pressed⟩ :: rest →
    ∃ t, runSchedule engineOnly (releases.length + 1) s = some t ∧ t.status = .running ∧
      (t.readV x).toNat = k.val ∧ t.pc = s.pc + 2#16 ∧ t.kq = rest ∧
      (∀ j : Key, t.keys[j.val] =
        if j = k then true else if ∃ e ∈ releases, e.key = j then false else s.keys[j.val]) ∧
      SameRegsExcept [x] s t ∧ t.iReg = s.iReg ∧ SameMemory s t ∧ SameStack s t ∧ t.dt = s.dt ∧ t.st = s.st ∧
      t.fb = s.fb ∧ t.shut = s.shut ∧ t.draws = s.draws ∧ t.sched = s.sched

/-- With no event queued and no shutdown the engine is held in the wait: its turn changes nothing (R276, R318). That
it is a step at all is the model's choice (log entry 5). The spec's own decision D20. -/
def Obligations.EmptyKeyWaitIsHeld : Prop :=
  ∀ (x : Reg) (s : State), s.status = .waitKey x → s.shut = false → s.kq = [] → nextTurn s = .engine →
    step s = .next { s with sched := s.sched.tail }

/-! ### The cycle, the agents and the faults -/

/-- A step runs the decoded operation: with the engine's turn, in status Running and with no shutdown, the step is
the drain and then exec of the operation that the two bytes at pc decode to (R120). The spec's own decisions D30,
D31. -/
def Obligations.StepRunsTheDecodedOperation : Prop :=
  ∀ (i : Instr) (s : State), Executes s i → step s = exec i (drain { s with sched := s.sched.tail })

/-- The drain empties the queue, sets each key by its last event, and changes nothing else (R121). -/
def Obligations.DrainAppliesTheLastEvent : Prop :=
  ∀ s : State, (drain s).kq = [] ∧
    (∀ k : Key, (drain s).keys[k.val] =
      match (s.kq.filter fun e => e.key = k).getLast? with
      | some e => e.action == .pressed
      | none => s.keys[k.val]) ∧
    drain s = { s with keys := (drain s).keys, kq := [] }

/-- The two faults before execute, in the order of R303: pc above 0xFFE, then an illegal word; the drain has run, and
nothing else changes (R53, R302). The spec's own decisions D3, D5, D7, D24. -/
def Obligations.FetchAndDecodeFaults : Prop :=
  ∀ s : State, nextTurn s = .engine → s.status = .running → s.shut = false →
    (0xFFE < s.pc.toNat →
      step s = .next (faultedState (drain { s with sched := s.sched.tail }) .fetchOutOfRange s.pc.toNat)) ∧
    (∀ w, s.pc.toNat ≤ 0xFFE → wordOfBytes (s.mem.read s.pc.toNat) (s.mem.read (s.pc.toNat + 1)) = w → IllegalWord w →
      step s = .next (faultedState (drain { s with sched := s.sched.tail }) .unknownOpcode w.toNat))

/-- Every operation completes: it raises the fault that R301 and R303 name for the state, with the info recorded and
nothing else changed (R300), or it raises none. The spec's own decisions D6, D10, D11, D12, D14, D24. -/
def Obligations.EveryOperationCompletesOrFaultsAsListed : Prop :=
  ∀ (i : Instr) (s : State),
    (∀ code info, faultOf i s = some (code, info) → exec i s = .next (faultedState s code info)) ∧
    (faultOf i s = none → ∃ t, exec i s = .next t ∧
      (t.status = s.status ∨ ∃ x, i = .waitKey x ∧ t.status = .waitKey x))

/-- Shutdown is seen at the top of a cycle and in a wait step: the engine halts, and nothing else changes (R122,
R277). The spec's own decisions D23, D30. -/
def Obligations.ShutdownHaltsTheEngine : Prop :=
  ∀ s : State, nextTurn s = .engine → s.status.live = true → s.shut = true →
    step s = .next { s with status := .halted, sched := s.sched.tail }

/-- What each other agent's turn does, and all it does (R307, R310, R312, R313). That the timer still ticks
between the shutdown signal and Halted is the model's reading (log entry 10). The spec's own decisions D1, D21, D22. -/
def Obligations.OtherAgentsWriteOnlyTheirOwn : Prop :=
  ∀ s : State, s.status.live = true →
    (nextTurn s = .timer → ∃ d e : Byte, d.toNat = s.dt.toNat - 1 ∧ e.toNat = s.st.toNat - 1 ∧
      step s = .next { s with dt := d, st := e, sched := s.sched.tail }) ∧
    (∀ e, nextTurn s = .input e → step s = .next { s with kq := s.kq ++ [e], sched := s.sched.tail }) ∧
    (nextTurn s = .renderer → step s = .next { s with sched := s.sched.tail }) ∧
    (nextTurn s = .shutdown → step s = .next { s with shut := true, sched := s.sched.tail })

/-- A step stops exactly in a terminal status, with that status as its reason, and it never refuses (R32, R300). That
the whole machine stops there is the model's reading (log entry 4); that a key wait with KQ empty and no shutdown has a
step, which changes nothing, is the model's choice (log entry 5). The spec's own decision D24. -/
def Obligations.OnlyTerminalStatusStops : Prop :=
  ∀ s : State,
    (s.status = .halted → step s = .fault .halted) ∧
    (∀ code info, s.status = .faulted code info → step s = .fault (.faulted code info)) ∧
    (s.status.live = true → ∃ t, step s = .next t)

/-- Ticks alone count DT down to zero and no further (R307). That they go on between the shutdown signal and Halted is
the model's reading (log entry 10). The spec's own decision D21. -/
def Obligations.TicksCountDown : Prop :=
  ∀ (n : Nat) (s : State), s.status.live = true →
    ∃ t, runSchedule timerOnly n s = some t ∧ t.dt.toNat = s.dt.toNat - n ∧ t.st.toNat = s.st.toNat - n ∧
      t = { s with dt := t.dt, st := t.st }

/-- Under a fair schedule, in a run that does not end and executes no LD DT,Vx, DT reaches 0 and stays there (R308).
Schedules and their fairness are the model's form of the spec's open parameter (log entries 3 and 11), and ticks between
the shutdown signal and Halted are its reading (log entry 10). The spec's own decisions D1, D21. -/
def Obligations.FairTimerReachesZero : Prop :=
  ∀ (f : Schedule) (s : State), f.fair → (∀ n, ∃ t, runSchedule f n s = some t) →
    (∀ n t, runSchedule f n s = some t → f n = .engine → ¬ ∃ x, Executes { t with sched := [] } (.ldDtV x)) →
    ∃ n, ∀ m t, n ≤ m → runSchedule f m s = some t → t.dt = 0#8

/-- Every finite interleaving of the agents is a run of step, from the state that lists their turns (decision D1; log
entry 3). -/
def Obligations.EveryInterleavingIsARun : Prop :=
  ∀ (f : Schedule) (n : Nat) (s t : State),
    runSchedule f n s = some t ↔
      Host.Core.run Sys2Proof.core n { s with sched := (List.range n).map f ++ s.sched } = .next t

/-! ### Who writes what -/

/-- DT changes by a tick, down by one, or by an executed LD DT,Vx, and by nothing else (R27). -/
def Obligations.DelayCounterWriters : Prop :=
  ∀ s t : State, step s = .next t → t.dt ≠ s.dt →
    (nextTurn s = .timer ∧ t.dt.toNat + 1 = s.dt.toNat) ∨ ∃ x, Executes s (.ldDtV x) ∧ t.dt = s.readV x

/-- The framebuffer changes by an executed CLS or DRW and by nothing else (R31). -/
def Obligations.FramebufferWriters : Prop :=
  ∀ s t : State, step s = .next t → t.fb ≠ s.fb → Executes s .cls ∨ ∃ x y n, Executes s (.drw x y n)

/-- Memory changes by an executed LD B or LD [I], only in the bytes at I that the operation stores, and by nothing
else (R37, R56). The spec's own decision D6. -/
def Obligations.MemoryWriters : Prop :=
  ∀ (s t : State) (a : Nat), step s = .next t → t.mem.read a ≠ s.mem.read a →
    (∃ x, Executes s (.ldB x) ∧ s.iReg.toNat ≤ a ∧ a ≤ s.iReg.toNat + 2 ∧ a ≤ 0xFFF) ∨
    (∃ x, Executes s (.storeRegs x) ∧ s.iReg.toNat ≤ a ∧ a ≤ s.iReg.toNat + x.val ∧ a ≤ 0xFFF)

/-- A V register changes by an executed operation that R22 lists as writing it, or by the wait step of LD Vx,K, and by
nothing else; so VF changes only as a flag of the five operations of R33 or as a destination. The spec's own decision
D34. -/
def Obligations.RegisterWriters : Prop :=
  ∀ (s t : State) (r : Reg), step s = .next t → t.readV r ≠ s.readV r →
    (∃ i, Executes s i ∧ r ∈ writtenRegs i) ∨ (nextTurn s = .engine ∧ s.status = .waitKey r)

/-- The call stack and its pointer change by an executed CALL or RET, sp by exactly one, and by nothing else (R25).
The spec's own decision D32. -/
def Obligations.StackWriters : Prop :=
  ∀ s t : State, step s = .next t → t.stack ≠ s.stack ∨ t.sp ≠ s.sp →
    (∃ a, Executes s (.call a) ∧ t.sp.val = s.sp.val + 1) ∨ (Executes s .ret ∧ t.sp.val + 1 = s.sp.val)

/-- I changes by the five operations that R23 names and by nothing else. -/
def Obligations.IndexWriters : Prop :=
  ∀ s t : State, step s = .next t → t.iReg ≠ s.iReg →
    (∃ a, Executes s (.ldI a)) ∨ ∃ x, Executes s (.addI x) ∨ Executes s (.ldF x) ∨ Executes s (.storeRegs x) ∨
      Executes s (.loadRegs x)

/-- The key-state bitmap changes in the engine's turn only; the queue grows at its tail by one event in the Input
Bridge's turn, and loses events at its head in the engine's (R29, R30). -/
def Obligations.KeyWriters : Prop :=
  ∀ s t : State, step s = .next t →
    (t.keys ≠ s.keys → nextTurn s = .engine) ∧
    ((∃ e, nextTurn s = .input e ∧ t.kq = s.kq ++ [e]) ∨ (nextTurn s = .engine ∧ ∃ taken, s.kq = taken ++ t.kq) ∨
      t.kq = s.kq)

/-- The shutdown flag, once set, stays set (R35). -/
def Obligations.ShutdownIsNeverCleared : Prop := ∀ s t : State, step s = .next t → s.shut = true → t.shut = true

/-- ST never rises, and once 0 it stays 0 (R28). The spec's own decision D21. -/
def Obligations.SoundCounterOnlyFalls : Prop :=
  ∀ s t : State, step s = .next t → t.st.toNat ≤ s.st.toNat ∧ (t.st ≠ s.st → nextTurn s = .timer)

/-- ST is observed by nothing: two states that differ in ST alone step alike, to states that differ in ST alone, or stop
for the same reason (R28). -/
def Obligations.SoundCounterIsNotObserved : Prop :=
  ∀ (s : State) (b : Byte),
    (∀ t, step s = .next t → ∃ c, step { s with st := b } = .next { t with st := c }) ∧
    (∀ r, step s = .fault r → step { s with st := b } = .fault r)

/-! ### Construction and invariants -/

/-- Construction for any FONT and any image that fits: every piece of state at the value of R40; a longer image is a
load failure and gives no state (R352). The spec's own decisions D26, D28. -/
def Obligations.ConstructionValues : Prop :=
  ∀ (font : Vector Byte 80) (image : List Byte),
    (3584 < image.length → construct font image = none) ∧
    (image.length ≤ 3584 → ∃ s, construct font image = some s ∧
      (∀ r, s.readV r = 0#8) ∧ s.iReg = 0#16 ∧ s.pc = 0x200#16 ∧ s.sp.val = 0 ∧
      (∀ j : Fin 16, s.stack[j.val] = 0#16) ∧ s.dt = 0#8 ∧ s.st = 0#8 ∧ (∀ k : Key, s.keys[k.val] = false) ∧
      s.kq = [] ∧ (∀ j : Fin 256, s.fb[j.val] = 0#8) ∧
      (∀ a : Fin 80, s.mem.read a.val = font[a.val]) ∧
      (∀ a, 0x050 ≤ a → a < 0x200 → s.mem.read a = 0#8) ∧
      (∀ k b, image[k]? = some b → s.mem.read (0x200 + k) = b) ∧
      (∀ a, 0x200 + image.length ≤ a → a ≤ 0xFFF → s.mem.read a = 0#8) ∧
      s.status = .running ∧ s.shut = false)

/-- The host's reset state is the construction with the default font and an empty image (R40; the font is log entry
1's), and the machine's invariant holds there and at every construction. The spec's own decision D26. -/
def Obligations.InvariantAtConstruction : Prop :=
  construct defaultFont [] = some State.reset ∧ Inv State.reset ∧
    ∀ font image s, construct font image = some s → Inv s

/-- Every step keeps the invariant: memory in canonical form (log entry 7), pc at most 0x1002 and during a key wait at
most 0xFFE, and every stack entry in use at most 0xFFE (the bounds of R124). The spec's own decision D7. -/
def Obligations.StepKeepsTheInvariant : Prop := ∀ s t : State, Inv s → step s = .next t → Inv t
end

