-- ==== Sys2Proof/Laws/State.lean ====
section
/-! SUPPORT. One lemma for each field of State under each update of Machine/Ops.lean, all by rfl, so that no proof unfolds
a record update. -/

namespace Sys2Proof.Machine

variable (s : State)

@[simp] theorem State.setRegFile_v (a : Regs) : (s.setRegFile a).v = a := rfl
@[simp] theorem State.setRegFile_iReg (a : Regs) : (s.setRegFile a).iReg = s.iReg := rfl
@[simp] theorem State.setRegFile_pc (a : Regs) : (s.setRegFile a).pc = s.pc := rfl
@[simp] theorem State.setRegFile_stack (a : Regs) : (s.setRegFile a).stack = s.stack := rfl
@[simp] theorem State.setRegFile_sp (a : Regs) : (s.setRegFile a).sp = s.sp := rfl
@[simp] theorem State.setRegFile_dt (a : Regs) : (s.setRegFile a).dt = s.dt := rfl
@[simp] theorem State.setRegFile_st (a : Regs) : (s.setRegFile a).st = s.st := rfl
@[simp] theorem State.setRegFile_keys (a : Regs) : (s.setRegFile a).keys = s.keys := rfl
@[simp] theorem State.setRegFile_kq (a : Regs) : (s.setRegFile a).kq = s.kq := rfl
@[simp] theorem State.setRegFile_fb (a : Regs) : (s.setRegFile a).fb = s.fb := rfl
@[simp] theorem State.setRegFile_mem (a : Regs) : (s.setRegFile a).mem = s.mem := rfl
@[simp] theorem State.setRegFile_status (a : Regs) : (s.setRegFile a).status = s.status := rfl
@[simp] theorem State.setRegFile_shut (a : Regs) : (s.setRegFile a).shut = s.shut := rfl
@[simp] theorem State.setRegFile_draws (a : Regs) : (s.setRegFile a).draws = s.draws := rfl
@[simp] theorem State.setRegFile_sched (a : Regs) : (s.setRegFile a).sched = s.sched := rfl

@[simp] theorem State.setI_v (a : Word) : (s.setI a).v = s.v := rfl
@[simp] theorem State.setI_iReg (a : Word) : (s.setI a).iReg = a := rfl
@[simp] theorem State.setI_pc (a : Word) : (s.setI a).pc = s.pc := rfl
@[simp] theorem State.setI_stack (a : Word) : (s.setI a).stack = s.stack := rfl
@[simp] theorem State.setI_sp (a : Word) : (s.setI a).sp = s.sp := rfl
@[simp] theorem State.setI_dt (a : Word) : (s.setI a).dt = s.dt := rfl
@[simp] theorem State.setI_st (a : Word) : (s.setI a).st = s.st := rfl
@[simp] theorem State.setI_keys (a : Word) : (s.setI a).keys = s.keys := rfl
@[simp] theorem State.setI_kq (a : Word) : (s.setI a).kq = s.kq := rfl
@[simp] theorem State.setI_fb (a : Word) : (s.setI a).fb = s.fb := rfl
@[simp] theorem State.setI_mem (a : Word) : (s.setI a).mem = s.mem := rfl
@[simp] theorem State.setI_status (a : Word) : (s.setI a).status = s.status := rfl
@[simp] theorem State.setI_shut (a : Word) : (s.setI a).shut = s.shut := rfl
@[simp] theorem State.setI_draws (a : Word) : (s.setI a).draws = s.draws := rfl
@[simp] theorem State.setI_sched (a : Word) : (s.setI a).sched = s.sched := rfl

@[simp] theorem State.setPc_v (a : Word) : (s.setPc a).v = s.v := rfl
@[simp] theorem State.setPc_iReg (a : Word) : (s.setPc a).iReg = s.iReg := rfl
@[simp] theorem State.setPc_pc (a : Word) : (s.setPc a).pc = a := rfl
@[simp] theorem State.setPc_stack (a : Word) : (s.setPc a).stack = s.stack := rfl
@[simp] theorem State.setPc_sp (a : Word) : (s.setPc a).sp = s.sp := rfl
@[simp] theorem State.setPc_dt (a : Word) : (s.setPc a).dt = s.dt := rfl
@[simp] theorem State.setPc_st (a : Word) : (s.setPc a).st = s.st := rfl
@[simp] theorem State.setPc_keys (a : Word) : (s.setPc a).keys = s.keys := rfl
@[simp] theorem State.setPc_kq (a : Word) : (s.setPc a).kq = s.kq := rfl
@[simp] theorem State.setPc_fb (a : Word) : (s.setPc a).fb = s.fb := rfl
@[simp] theorem State.setPc_mem (a : Word) : (s.setPc a).mem = s.mem := rfl
@[simp] theorem State.setPc_status (a : Word) : (s.setPc a).status = s.status := rfl
@[simp] theorem State.setPc_shut (a : Word) : (s.setPc a).shut = s.shut := rfl
@[simp] theorem State.setPc_draws (a : Word) : (s.setPc a).draws = s.draws := rfl
@[simp] theorem State.setPc_sched (a : Word) : (s.setPc a).sched = s.sched := rfl

@[simp] theorem State.setStack_v (a : Vector Word 16) : (s.setStack a).v = s.v := rfl
@[simp] theorem State.setStack_iReg (a : Vector Word 16) : (s.setStack a).iReg = s.iReg := rfl
@[simp] theorem State.setStack_pc (a : Vector Word 16) : (s.setStack a).pc = s.pc := rfl
@[simp] theorem State.setStack_stack (a : Vector Word 16) : (s.setStack a).stack = a := rfl
@[simp] theorem State.setStack_sp (a : Vector Word 16) : (s.setStack a).sp = s.sp := rfl
@[simp] theorem State.setStack_dt (a : Vector Word 16) : (s.setStack a).dt = s.dt := rfl
@[simp] theorem State.setStack_st (a : Vector Word 16) : (s.setStack a).st = s.st := rfl
@[simp] theorem State.setStack_keys (a : Vector Word 16) : (s.setStack a).keys = s.keys := rfl
@[simp] theorem State.setStack_kq (a : Vector Word 16) : (s.setStack a).kq = s.kq := rfl
@[simp] theorem State.setStack_fb (a : Vector Word 16) : (s.setStack a).fb = s.fb := rfl
@[simp] theorem State.setStack_mem (a : Vector Word 16) : (s.setStack a).mem = s.mem := rfl
@[simp] theorem State.setStack_status (a : Vector Word 16) : (s.setStack a).status = s.status := rfl
@[simp] theorem State.setStack_shut (a : Vector Word 16) : (s.setStack a).shut = s.shut := rfl
@[simp] theorem State.setStack_draws (a : Vector Word 16) : (s.setStack a).draws = s.draws := rfl
@[simp] theorem State.setStack_sched (a : Vector Word 16) : (s.setStack a).sched = s.sched := rfl

@[simp] theorem State.setSp_v (a : Fin 17) : (s.setSp a).v = s.v := rfl
@[simp] theorem State.setSp_iReg (a : Fin 17) : (s.setSp a).iReg = s.iReg := rfl
@[simp] theorem State.setSp_pc (a : Fin 17) : (s.setSp a).pc = s.pc := rfl
@[simp] theorem State.setSp_stack (a : Fin 17) : (s.setSp a).stack = s.stack := rfl
@[simp] theorem State.setSp_sp (a : Fin 17) : (s.setSp a).sp = a := rfl
@[simp] theorem State.setSp_dt (a : Fin 17) : (s.setSp a).dt = s.dt := rfl
@[simp] theorem State.setSp_st (a : Fin 17) : (s.setSp a).st = s.st := rfl
@[simp] theorem State.setSp_keys (a : Fin 17) : (s.setSp a).keys = s.keys := rfl
@[simp] theorem State.setSp_kq (a : Fin 17) : (s.setSp a).kq = s.kq := rfl
@[simp] theorem State.setSp_fb (a : Fin 17) : (s.setSp a).fb = s.fb := rfl
@[simp] theorem State.setSp_mem (a : Fin 17) : (s.setSp a).mem = s.mem := rfl
@[simp] theorem State.setSp_status (a : Fin 17) : (s.setSp a).status = s.status := rfl
@[simp] theorem State.setSp_shut (a : Fin 17) : (s.setSp a).shut = s.shut := rfl
@[simp] theorem State.setSp_draws (a : Fin 17) : (s.setSp a).draws = s.draws := rfl
@[simp] theorem State.setSp_sched (a : Fin 17) : (s.setSp a).sched = s.sched := rfl

@[simp] theorem State.setDt_v (a : Byte) : (s.setDt a).v = s.v := rfl
@[simp] theorem State.setDt_iReg (a : Byte) : (s.setDt a).iReg = s.iReg := rfl
@[simp] theorem State.setDt_pc (a : Byte) : (s.setDt a).pc = s.pc := rfl
@[simp] theorem State.setDt_stack (a : Byte) : (s.setDt a).stack = s.stack := rfl
@[simp] theorem State.setDt_sp (a : Byte) : (s.setDt a).sp = s.sp := rfl
@[simp] theorem State.setDt_dt (a : Byte) : (s.setDt a).dt = a := rfl
@[simp] theorem State.setDt_st (a : Byte) : (s.setDt a).st = s.st := rfl
@[simp] theorem State.setDt_keys (a : Byte) : (s.setDt a).keys = s.keys := rfl
@[simp] theorem State.setDt_kq (a : Byte) : (s.setDt a).kq = s.kq := rfl
@[simp] theorem State.setDt_fb (a : Byte) : (s.setDt a).fb = s.fb := rfl
@[simp] theorem State.setDt_mem (a : Byte) : (s.setDt a).mem = s.mem := rfl
@[simp] theorem State.setDt_status (a : Byte) : (s.setDt a).status = s.status := rfl
@[simp] theorem State.setDt_shut (a : Byte) : (s.setDt a).shut = s.shut := rfl
@[simp] theorem State.setDt_draws (a : Byte) : (s.setDt a).draws = s.draws := rfl
@[simp] theorem State.setDt_sched (a : Byte) : (s.setDt a).sched = s.sched := rfl

@[simp] theorem State.setSt_v (a : Byte) : (s.setSt a).v = s.v := rfl
@[simp] theorem State.setSt_iReg (a : Byte) : (s.setSt a).iReg = s.iReg := rfl
@[simp] theorem State.setSt_pc (a : Byte) : (s.setSt a).pc = s.pc := rfl
@[simp] theorem State.setSt_stack (a : Byte) : (s.setSt a).stack = s.stack := rfl
@[simp] theorem State.setSt_sp (a : Byte) : (s.setSt a).sp = s.sp := rfl
@[simp] theorem State.setSt_dt (a : Byte) : (s.setSt a).dt = s.dt := rfl
@[simp] theorem State.setSt_st (a : Byte) : (s.setSt a).st = a := rfl
@[simp] theorem State.setSt_keys (a : Byte) : (s.setSt a).keys = s.keys := rfl
@[simp] theorem State.setSt_kq (a : Byte) : (s.setSt a).kq = s.kq := rfl
@[simp] theorem State.setSt_fb (a : Byte) : (s.setSt a).fb = s.fb := rfl
@[simp] theorem State.setSt_mem (a : Byte) : (s.setSt a).mem = s.mem := rfl
@[simp] theorem State.setSt_status (a : Byte) : (s.setSt a).status = s.status := rfl
@[simp] theorem State.setSt_shut (a : Byte) : (s.setSt a).shut = s.shut := rfl
@[simp] theorem State.setSt_draws (a : Byte) : (s.setSt a).draws = s.draws := rfl
@[simp] theorem State.setSt_sched (a : Byte) : (s.setSt a).sched = s.sched := rfl

@[simp] theorem State.setKeys_v (a : KeyMap) : (s.setKeys a).v = s.v := rfl
@[simp] theorem State.setKeys_iReg (a : KeyMap) : (s.setKeys a).iReg = s.iReg := rfl
@[simp] theorem State.setKeys_pc (a : KeyMap) : (s.setKeys a).pc = s.pc := rfl
@[simp] theorem State.setKeys_stack (a : KeyMap) : (s.setKeys a).stack = s.stack := rfl
@[simp] theorem State.setKeys_sp (a : KeyMap) : (s.setKeys a).sp = s.sp := rfl
@[simp] theorem State.setKeys_dt (a : KeyMap) : (s.setKeys a).dt = s.dt := rfl
@[simp] theorem State.setKeys_st (a : KeyMap) : (s.setKeys a).st = s.st := rfl
@[simp] theorem State.setKeys_keys (a : KeyMap) : (s.setKeys a).keys = a := rfl
@[simp] theorem State.setKeys_kq (a : KeyMap) : (s.setKeys a).kq = s.kq := rfl
@[simp] theorem State.setKeys_fb (a : KeyMap) : (s.setKeys a).fb = s.fb := rfl
@[simp] theorem State.setKeys_mem (a : KeyMap) : (s.setKeys a).mem = s.mem := rfl
@[simp] theorem State.setKeys_status (a : KeyMap) : (s.setKeys a).status = s.status := rfl
@[simp] theorem State.setKeys_shut (a : KeyMap) : (s.setKeys a).shut = s.shut := rfl
@[simp] theorem State.setKeys_draws (a : KeyMap) : (s.setKeys a).draws = s.draws := rfl
@[simp] theorem State.setKeys_sched (a : KeyMap) : (s.setKeys a).sched = s.sched := rfl

@[simp] theorem State.setKq_v (a : List KeyEvent) : (s.setKq a).v = s.v := rfl
@[simp] theorem State.setKq_iReg (a : List KeyEvent) : (s.setKq a).iReg = s.iReg := rfl
@[simp] theorem State.setKq_pc (a : List KeyEvent) : (s.setKq a).pc = s.pc := rfl
@[simp] theorem State.setKq_stack (a : List KeyEvent) : (s.setKq a).stack = s.stack := rfl
@[simp] theorem State.setKq_sp (a : List KeyEvent) : (s.setKq a).sp = s.sp := rfl
@[simp] theorem State.setKq_dt (a : List KeyEvent) : (s.setKq a).dt = s.dt := rfl
@[simp] theorem State.setKq_st (a : List KeyEvent) : (s.setKq a).st = s.st := rfl
@[simp] theorem State.setKq_keys (a : List KeyEvent) : (s.setKq a).keys = s.keys := rfl
@[simp] theorem State.setKq_kq (a : List KeyEvent) : (s.setKq a).kq = a := rfl
@[simp] theorem State.setKq_fb (a : List KeyEvent) : (s.setKq a).fb = s.fb := rfl
@[simp] theorem State.setKq_mem (a : List KeyEvent) : (s.setKq a).mem = s.mem := rfl
@[simp] theorem State.setKq_status (a : List KeyEvent) : (s.setKq a).status = s.status := rfl
@[simp] theorem State.setKq_shut (a : List KeyEvent) : (s.setKq a).shut = s.shut := rfl
@[simp] theorem State.setKq_draws (a : List KeyEvent) : (s.setKq a).draws = s.draws := rfl
@[simp] theorem State.setKq_sched (a : List KeyEvent) : (s.setKq a).sched = s.sched := rfl

@[simp] theorem State.setFb_v (a : Frame) : (s.setFb a).v = s.v := rfl
@[simp] theorem State.setFb_iReg (a : Frame) : (s.setFb a).iReg = s.iReg := rfl
@[simp] theorem State.setFb_pc (a : Frame) : (s.setFb a).pc = s.pc := rfl
@[simp] theorem State.setFb_stack (a : Frame) : (s.setFb a).stack = s.stack := rfl
@[simp] theorem State.setFb_sp (a : Frame) : (s.setFb a).sp = s.sp := rfl
@[simp] theorem State.setFb_dt (a : Frame) : (s.setFb a).dt = s.dt := rfl
@[simp] theorem State.setFb_st (a : Frame) : (s.setFb a).st = s.st := rfl
@[simp] theorem State.setFb_keys (a : Frame) : (s.setFb a).keys = s.keys := rfl
@[simp] theorem State.setFb_kq (a : Frame) : (s.setFb a).kq = s.kq := rfl
@[simp] theorem State.setFb_fb (a : Frame) : (s.setFb a).fb = a := rfl
@[simp] theorem State.setFb_mem (a : Frame) : (s.setFb a).mem = s.mem := rfl
@[simp] theorem State.setFb_status (a : Frame) : (s.setFb a).status = s.status := rfl
@[simp] theorem State.setFb_shut (a : Frame) : (s.setFb a).shut = s.shut := rfl
@[simp] theorem State.setFb_draws (a : Frame) : (s.setFb a).draws = s.draws := rfl
@[simp] theorem State.setFb_sched (a : Frame) : (s.setFb a).sched = s.sched := rfl

@[simp] theorem State.setMem_v (a : Memory) : (s.setMem a).v = s.v := rfl
@[simp] theorem State.setMem_iReg (a : Memory) : (s.setMem a).iReg = s.iReg := rfl
@[simp] theorem State.setMem_pc (a : Memory) : (s.setMem a).pc = s.pc := rfl
@[simp] theorem State.setMem_stack (a : Memory) : (s.setMem a).stack = s.stack := rfl
@[simp] theorem State.setMem_sp (a : Memory) : (s.setMem a).sp = s.sp := rfl
@[simp] theorem State.setMem_dt (a : Memory) : (s.setMem a).dt = s.dt := rfl
@[simp] theorem State.setMem_st (a : Memory) : (s.setMem a).st = s.st := rfl
@[simp] theorem State.setMem_keys (a : Memory) : (s.setMem a).keys = s.keys := rfl
@[simp] theorem State.setMem_kq (a : Memory) : (s.setMem a).kq = s.kq := rfl
@[simp] theorem State.setMem_fb (a : Memory) : (s.setMem a).fb = s.fb := rfl
@[simp] theorem State.setMem_mem (a : Memory) : (s.setMem a).mem = a := rfl
@[simp] theorem State.setMem_status (a : Memory) : (s.setMem a).status = s.status := rfl
@[simp] theorem State.setMem_shut (a : Memory) : (s.setMem a).shut = s.shut := rfl
@[simp] theorem State.setMem_draws (a : Memory) : (s.setMem a).draws = s.draws := rfl
@[simp] theorem State.setMem_sched (a : Memory) : (s.setMem a).sched = s.sched := rfl

@[simp] theorem State.setStatus_v (a : Status) : (s.setStatus a).v = s.v := rfl
@[simp] theorem State.setStatus_iReg (a : Status) : (s.setStatus a).iReg = s.iReg := rfl
@[simp] theorem State.setStatus_pc (a : Status) : (s.setStatus a).pc = s.pc := rfl
@[simp] theorem State.setStatus_stack (a : Status) : (s.setStatus a).stack = s.stack := rfl
@[simp] theorem State.setStatus_sp (a : Status) : (s.setStatus a).sp = s.sp := rfl
@[simp] theorem State.setStatus_dt (a : Status) : (s.setStatus a).dt = s.dt := rfl
@[simp] theorem State.setStatus_st (a : Status) : (s.setStatus a).st = s.st := rfl
@[simp] theorem State.setStatus_keys (a : Status) : (s.setStatus a).keys = s.keys := rfl
@[simp] theorem State.setStatus_kq (a : Status) : (s.setStatus a).kq = s.kq := rfl
@[simp] theorem State.setStatus_fb (a : Status) : (s.setStatus a).fb = s.fb := rfl
@[simp] theorem State.setStatus_mem (a : Status) : (s.setStatus a).mem = s.mem := rfl
@[simp] theorem State.setStatus_status (a : Status) : (s.setStatus a).status = a := rfl
@[simp] theorem State.setStatus_shut (a : Status) : (s.setStatus a).shut = s.shut := rfl
@[simp] theorem State.setStatus_draws (a : Status) : (s.setStatus a).draws = s.draws := rfl
@[simp] theorem State.setStatus_sched (a : Status) : (s.setStatus a).sched = s.sched := rfl

@[simp] theorem State.setShut_v (a : Bool) : (s.setShut a).v = s.v := rfl
@[simp] theorem State.setShut_iReg (a : Bool) : (s.setShut a).iReg = s.iReg := rfl
@[simp] theorem State.setShut_pc (a : Bool) : (s.setShut a).pc = s.pc := rfl
@[simp] theorem State.setShut_stack (a : Bool) : (s.setShut a).stack = s.stack := rfl
@[simp] theorem State.setShut_sp (a : Bool) : (s.setShut a).sp = s.sp := rfl
@[simp] theorem State.setShut_dt (a : Bool) : (s.setShut a).dt = s.dt := rfl
@[simp] theorem State.setShut_st (a : Bool) : (s.setShut a).st = s.st := rfl
@[simp] theorem State.setShut_keys (a : Bool) : (s.setShut a).keys = s.keys := rfl
@[simp] theorem State.setShut_kq (a : Bool) : (s.setShut a).kq = s.kq := rfl
@[simp] theorem State.setShut_fb (a : Bool) : (s.setShut a).fb = s.fb := rfl
@[simp] theorem State.setShut_mem (a : Bool) : (s.setShut a).mem = s.mem := rfl
@[simp] theorem State.setShut_status (a : Bool) : (s.setShut a).status = s.status := rfl
@[simp] theorem State.setShut_shut (a : Bool) : (s.setShut a).shut = a := rfl
@[simp] theorem State.setShut_draws (a : Bool) : (s.setShut a).draws = s.draws := rfl
@[simp] theorem State.setShut_sched (a : Bool) : (s.setShut a).sched = s.sched := rfl

@[simp] theorem State.setDraws_v (a : Nat) : (s.setDraws a).v = s.v := rfl
@[simp] theorem State.setDraws_iReg (a : Nat) : (s.setDraws a).iReg = s.iReg := rfl
@[simp] theorem State.setDraws_pc (a : Nat) : (s.setDraws a).pc = s.pc := rfl
@[simp] theorem State.setDraws_stack (a : Nat) : (s.setDraws a).stack = s.stack := rfl
@[simp] theorem State.setDraws_sp (a : Nat) : (s.setDraws a).sp = s.sp := rfl
@[simp] theorem State.setDraws_dt (a : Nat) : (s.setDraws a).dt = s.dt := rfl
@[simp] theorem State.setDraws_st (a : Nat) : (s.setDraws a).st = s.st := rfl
@[simp] theorem State.setDraws_keys (a : Nat) : (s.setDraws a).keys = s.keys := rfl
@[simp] theorem State.setDraws_kq (a : Nat) : (s.setDraws a).kq = s.kq := rfl
@[simp] theorem State.setDraws_fb (a : Nat) : (s.setDraws a).fb = s.fb := rfl
@[simp] theorem State.setDraws_mem (a : Nat) : (s.setDraws a).mem = s.mem := rfl
@[simp] theorem State.setDraws_status (a : Nat) : (s.setDraws a).status = s.status := rfl
@[simp] theorem State.setDraws_shut (a : Nat) : (s.setDraws a).shut = s.shut := rfl
@[simp] theorem State.setDraws_draws (a : Nat) : (s.setDraws a).draws = a := rfl
@[simp] theorem State.setDraws_sched (a : Nat) : (s.setDraws a).sched = s.sched := rfl

@[simp] theorem State.setSched_v (a : List Turn) : (s.setSched a).v = s.v := rfl
@[simp] theorem State.setSched_iReg (a : List Turn) : (s.setSched a).iReg = s.iReg := rfl
@[simp] theorem State.setSched_pc (a : List Turn) : (s.setSched a).pc = s.pc := rfl
@[simp] theorem State.setSched_stack (a : List Turn) : (s.setSched a).stack = s.stack := rfl
@[simp] theorem State.setSched_sp (a : List Turn) : (s.setSched a).sp = s.sp := rfl
@[simp] theorem State.setSched_dt (a : List Turn) : (s.setSched a).dt = s.dt := rfl
@[simp] theorem State.setSched_st (a : List Turn) : (s.setSched a).st = s.st := rfl
@[simp] theorem State.setSched_keys (a : List Turn) : (s.setSched a).keys = s.keys := rfl
@[simp] theorem State.setSched_kq (a : List Turn) : (s.setSched a).kq = s.kq := rfl
@[simp] theorem State.setSched_fb (a : List Turn) : (s.setSched a).fb = s.fb := rfl
@[simp] theorem State.setSched_mem (a : List Turn) : (s.setSched a).mem = s.mem := rfl
@[simp] theorem State.setSched_status (a : List Turn) : (s.setSched a).status = s.status := rfl
@[simp] theorem State.setSched_shut (a : List Turn) : (s.setSched a).shut = s.shut := rfl
@[simp] theorem State.setSched_draws (a : List Turn) : (s.setSched a).draws = s.draws := rfl
@[simp] theorem State.setSched_sched (a : List Turn) : (s.setSched a).sched = a := rfl

end Sys2Proof.Machine
end

