-- ==== Sys2Proof/Laws/Memory.lean ====
section
/-! SUPPORT. The laws of memory: read after write, the canonical form kept by every operation, blocks of bytes, and the
range check. -/

namespace Sys2Proof.Machine

theorem Memory.lookup_insert_self (m : Memory) (a : Nat) (v : Byte) : (m.insert a v).lookup a = some v := by
  induction m with
  | nil => simp [Memory.insert, Memory.lookup]
  | cons c m ih =>
    obtain ⟨b, w⟩ := c
    by_cases h1 : b < a
    · simp [Memory.insert, h1, Memory.lookup, ih, Nat.ne_of_lt h1]
    · by_cases h2 : b = a <;> simp [Memory.insert, h1, h2, Memory.lookup]

theorem Memory.lookup_insert_ne (m : Memory) {a b : Nat} (v : Byte) (h : b ≠ a) :
    (m.insert a v).lookup b = m.lookup b := by
  induction m with
  | nil => simp [Memory.insert, Memory.lookup, h.symm]
  | cons c m ih =>
    obtain ⟨d, w⟩ := c
    by_cases h1 : d < a
    · simp [Memory.insert, h1, Memory.lookup, ih]
    · by_cases h2 : d = a
      · subst h2; simp [Memory.insert, Memory.lookup, h.symm]
      · simp [Memory.insert, h1, h2, Memory.lookup, h.symm]

theorem Memory.lookup_erase_self (m : Memory) (a : Nat) : (m.erase a).lookup a = none := by
  induction m with
  | nil => rfl
  | cons c m ih =>
    obtain ⟨b, w⟩ := c
    by_cases h : b = a
    · simpa [Memory.erase, h] using ih
    · simpa [Memory.erase, Memory.lookup, h] using ih

theorem Memory.lookup_erase_ne (m : Memory) {a b : Nat} (h : b ≠ a) : (m.erase a).lookup b = m.lookup b := by
  induction m with
  | nil => rfl
  | cons c m ih =>
    obtain ⟨d, w⟩ := c
    by_cases hd : d = a
    · subst hd; simpa [Memory.erase, Memory.lookup, h.symm] using ih
    · simp only [Memory.erase] at ih ⊢
      simp [hd, Memory.lookup, ih]

/-- Reading an address just written gives the value written, whatever the list (R60). -/
@[simp] theorem Memory.read_write_self (m : Memory) (a : Nat) (v : Byte) : (m.write a v).read a = v := by
  by_cases h : v = Memory.background a
  · simp [Memory.write, h, Memory.read, Memory.lookup_erase_self]
  · simp [Memory.write, h, Memory.read, Memory.lookup_insert_self]

/-- A write leaves every other address alone (R60). -/
theorem Memory.read_write_ne (m : Memory) {a b : Nat} (v : Byte) (h : b ≠ a) : (m.write a v).read b = m.read b := by
  by_cases hv : v = Memory.background a
  · simp [Memory.write, hv, Memory.read, Memory.lookup_erase_ne m h]
  · simp [Memory.write, hv, Memory.read, Memory.lookup_insert_ne m v h]

theorem Memory.read_write (m : Memory) (a b : Nat) (v : Byte) :
    (m.write a v).read b = if b = a then v else m.read b := by
  split
  · next h => subst h; exact Memory.read_write_self m b v
  · next h => exact Memory.read_write_ne m v h

theorem Memory.wf_cons_iff {a : Nat} {v : Byte} {m : Memory} :
    Memory.wf ((a, v) :: m) = true ↔
      a < Config.memSize ∧ v ≠ Memory.background a ∧ (∀ c ∈ m, a < c.1) ∧ Memory.wf m = true := by
  simp [Memory.wf, and_assoc]

theorem Memory.mem_erase {m : Memory} {a : Nat} {c : Host.Cell} (h : c ∈ m.erase a) : c ∈ m :=
  (List.mem_filter.mp h).1

theorem Memory.mem_insert {m : Memory} {a : Nat} {v : Byte} {c : Host.Cell} (h : c ∈ m.insert a v) :
    c = (a, v) ∨ c ∈ m := by
  induction m with
  | nil => simpa [Memory.insert] using h
  | cons d m ih =>
    obtain ⟨b, w⟩ := d
    by_cases h1 : b < a
    · simp only [Memory.insert, h1, if_true, List.mem_cons] at h
      rcases h with h | h
      · simp [h]
      · rcases ih h with h | h <;> simp [h]
    · by_cases h2 : b = a
      · simp only [Memory.insert, h2, Nat.lt_irrefl, if_false, if_true, List.mem_cons] at h
        rcases h with h | h <;> simp [h]
      · simp only [Memory.insert, h1, h2, if_false, List.mem_cons] at h
        rcases h with h | h | h <;> simp [h]

theorem Memory.wf_erase {m : Memory} (a : Nat) (h : m.wf = true) : (m.erase a).wf = true := by
  induction m with
  | nil => rfl
  | cons c m ih =>
    obtain ⟨b, w⟩ := c
    obtain ⟨h1, h2, h3, h4⟩ := Memory.wf_cons_iff.mp h
    by_cases hb : b = a
    · simpa [Memory.erase, hb] using ih h4
    · have : Memory.erase ((b, w) :: m) a = (b, w) :: Memory.erase m a := by simp [Memory.erase, hb]
      rw [this]
      exact Memory.wf_cons_iff.mpr ⟨h1, h2, fun c hc => h3 c (Memory.mem_erase hc), ih h4⟩

theorem Memory.wf_insert {m : Memory} {a : Nat} {v : Byte} (ha : a < Config.memSize) (hv : v ≠ Memory.background a)
    (h : m.wf = true) : (m.insert a v).wf = true := by
  induction m with
  | nil => exact Memory.wf_cons_iff.mpr ⟨ha, hv, by simp, rfl⟩
  | cons c m ih =>
    obtain ⟨b, w⟩ := c
    obtain ⟨h1, h2, h3, h4⟩ := Memory.wf_cons_iff.mp h
    by_cases hlt : b < a
    · simp only [Memory.insert, hlt, if_true]
      refine Memory.wf_cons_iff.mpr ⟨h1, h2, fun c hc => ?_, ih h4⟩
      rcases Memory.mem_insert hc with rfl | hc
      · exact hlt
      · exact h3 c hc
    · by_cases heq : b = a
      · subst heq
        simp only [Memory.insert, Nat.lt_irrefl, if_false, if_true]
        exact Memory.wf_cons_iff.mpr ⟨ha, hv, h3, h4⟩
      · simp only [Memory.insert, hlt, heq, if_false]
        have hab : a < b := by omega
        refine Memory.wf_cons_iff.mpr ⟨ha, hv, fun c hc => ?_, h⟩
        rcases List.mem_cons.mp hc with rfl | hc
        · exact hab
        · exact Nat.lt_trans hab (h3 c hc)

/-- A write inside the address space keeps the canonical form. -/
theorem Memory.wf_write {m : Memory} {a : Nat} (v : Byte) (ha : a < Config.memSize) (h : m.wf = true) :
    (m.write a v).wf = true := by
  by_cases hv : v = Memory.background a
  · simpa [Memory.write, hv] using Memory.wf_erase a h
  · simpa [Memory.write, hv] using Memory.wf_insert ha hv h

theorem reset_mem_wf : State.reset.mem.wf = true := rfl

/-! ### Blocks -/

@[simp] theorem length_readBytes (m : Memory) (base n : Nat) : (readBytes m base n).length = n := by
  induction n generalizing base with
  | zero => rfl
  | succ n ih => simp [readBytes, ih]

/-- The k-th byte of a block is the byte at base + k. -/
@[simp] theorem getElem_readBytes (m : Memory) (base n k : Nat) (h : k < (readBytes m base n).length) :
    (readBytes m base n)[k] = m.read (base + k) := by
  induction n generalizing base k with
  | zero => simp [readBytes] at h
  | succ n ih =>
    cases k with
    | zero => simp [readBytes]
    | succ k =>
      simp only [readBytes, List.getElem_cons_succ]
      rw [ih]; congr 1; omega

/-- Everything a block store does to a read: inside the block the byte stored there, outside it what was there. -/
theorem read_storeBytes (m : Memory) (base : Nat) (bs : List Byte) (a : Nat) :
    (storeBytes m base bs).read a = if base ≤ a then bs.getD (a - base) (m.read a) else m.read a := by
  induction bs generalizing m base with
  | nil => simp [storeBytes]
  | cons b bs ih =>
    rw [storeBytes, ih, Memory.read_write]
    rcases Nat.lt_trichotomy a base with h | h | h
    · simp [show ¬ base + 1 ≤ a by omega, show ¬ base ≤ a by omega, show a ≠ base by omega]
    · simp [h]
    · obtain ⟨d, rfl⟩ : ∃ d, a = base + 1 + d := ⟨a - (base + 1), by omega⟩
      have h1 : base + 1 + d - (base + 1) = d := by omega
      have h2 : base + 1 + d - base = d + 1 := by omega
      simp [h1, h2, show base + 1 + d ≠ base by omega, show base ≤ base + 1 + d by omega]

theorem read_storeBytes_outside (m : Memory) (base : Nat) (bs : List Byte) {a : Nat}
    (h : a < base ∨ base + bs.length ≤ a) : (storeBytes m base bs).read a = m.read a := by
  rw [read_storeBytes]
  split
  · rw [List.getD_eq_default _ _ (by omega)]
  · rfl

theorem read_storeBytes_inside (m : Memory) (base : Nat) (bs : List Byte) {k : Nat} (h : k < bs.length) :
    (storeBytes m base bs).read (base + k) = bs[k] := by
  rw [read_storeBytes, if_pos (by omega)]
  have : base + k - base = k := by omega
  rw [this, List.getD_eq_getElem _ _ h]

/-- A block store inside the address space keeps the canonical form. -/
theorem wf_storeBytes {m : Memory} {base : Nat} {bs : List Byte} (hb : base + bs.length ≤ Config.memSize)
    (h : m.wf = true) : (storeBytes m base bs).wf = true := by
  induction bs generalizing m base with
  | nil => exact h
  | cons b bs ih =>
    rw [List.length_cons] at hb
    exact ih (by omega) (Memory.wf_write b (by omega) h)

/-! ### The range check -/

/-- The check passes exactly when the block is empty or ends at 0xFFF or below (R55). -/
theorem blockFault_eq_none_iff {base len : Nat} : blockFault base len = none ↔ len = 0 ∨ base + len ≤ 0x1000 := by
  unfold blockFault
  split <;> simp <;> omega

theorem blockFault_eq_some_iff {base len a : Nat} :
    blockFault base len = some a ↔ 0 < len ∧ 0x1000 < base + len ∧ a = max base 0x1000 := by
  unfold blockFault
  split <;> simp <;> omega

/-- Everything `withBlock` can do: the body where the block is in range, else AddressOutOfRange and nothing else. -/
theorem withBlock_cases (s : State) (len : Nat) (body : Outcome) :
    ((len = 0 ∨ s.iReg.toNat + len ≤ 0x1000) ∧ withBlock s len body = body) ∨
    ((0 < len ∧ 0x1000 < s.iReg.toNat + len) ∧
      withBlock s len body = raiseFault s .addressOutOfRange (max s.iReg.toNat 0x1000)) := by
  unfold withBlock
  cases h : blockFault s.iReg.toNat len with
  | none => exact .inl ⟨blockFault_eq_none_iff.mp h, rfl⟩
  | some a =>
    obtain ⟨h1, h2, rfl⟩ := blockFault_eq_some_iff.mp h
    exact .inr ⟨⟨h1, h2⟩, rfl⟩

theorem withBlock_in {s : State} {len : Nat} {body : Outcome} (h : len = 0 ∨ s.iReg.toNat + len ≤ 0x1000) :
    withBlock s len body = body := by
  simp [withBlock, blockFault_eq_none_iff.mpr h]

theorem withBlock_out {s : State} {len : Nat} {body : Outcome} (h0 : 0 < len) (h : 0x1000 < s.iReg.toNat + len) :
    withBlock s len body = raiseFault s .addressOutOfRange (max s.iReg.toNat 0x1000) := by
  simp [withBlock, blockFault_eq_some_iff.mpr ⟨h0, h, rfl⟩]

/-- Two canonical memories are the same list when no address is listed differently. -/
theorem Memory.lookup_eq_none_of_lt {m : Memory} {a : Nat} (h : ∀ c ∈ m, a < c.1) : m.lookup a = none := by
  induction m with
  | nil => rfl
  | cons c m ih =>
    obtain ⟨b, w⟩ := c
    have hb : a < b := h (b, w) (by simp)
    rw [Memory.lookup, if_neg (by omega)]
    exact ih fun c hc => h c (by simp [hc])

end Sys2Proof.Machine
end

