-- ==== Sys2Proof/Laws/Ops.lean ====
section
/-! SUPPORT. One lemma for each shared operation beside memory: registers, blocks of registers, the stack, the program
counter, keys, flags, and raising a fault. -/

namespace Sys2Proof.Machine

/-! ### Registers -/

@[simp] theorem readV_writeV_self (s : State) (r : Reg) (b : Byte) : (s.writeV r b).readV r = b := by
  simp [State.readV, State.writeV]

theorem readV_writeV_ne (s : State) {r q : Reg} (b : Byte) (h : q ≠ r) : (s.writeV r b).readV q = s.readV q := by
  have h' : r.val ≠ q.val := fun e => h (Fin.ext e.symm)
  simp [State.readV, State.writeV, h']

theorem readV_writeV (s : State) (r q : Reg) (b : Byte) :
    (s.writeV r b).readV q = if q = r then b else s.readV q := by
  split
  · next h => subst h; simp
  · next h => exact readV_writeV_ne s b h

section
variable (s : State) (r : Reg) (b : Byte)
@[simp] theorem writeV_iReg : (s.writeV r b).iReg = s.iReg := rfl
@[simp] theorem writeV_pc : (s.writeV r b).pc = s.pc := rfl
@[simp] theorem writeV_stack : (s.writeV r b).stack = s.stack := rfl
@[simp] theorem writeV_sp : (s.writeV r b).sp = s.sp := rfl
@[simp] theorem writeV_dt : (s.writeV r b).dt = s.dt := rfl
@[simp] theorem writeV_st : (s.writeV r b).st = s.st := rfl
@[simp] theorem writeV_keys : (s.writeV r b).keys = s.keys := rfl
@[simp] theorem writeV_kq : (s.writeV r b).kq = s.kq := rfl
@[simp] theorem writeV_fb : (s.writeV r b).fb = s.fb := rfl
@[simp] theorem writeV_mem : (s.writeV r b).mem = s.mem := rfl
@[simp] theorem writeV_status : (s.writeV r b).status = s.status := rfl
@[simp] theorem writeV_shut : (s.writeV r b).shut = s.shut := rfl
@[simp] theorem writeV_draws : (s.writeV r b).draws = s.draws := rfl
@[simp] theorem writeV_sched : (s.writeV r b).sched = s.sched := rfl
end

section
variable (s : State)
@[simp] theorem readV_setI (a : Word) (r : Reg) : (s.setI a).readV r = s.readV r := rfl
@[simp] theorem readV_setPc (a : Word) (r : Reg) : (s.setPc a).readV r = s.readV r := rfl
@[simp] theorem readV_setStack (a : Vector Word 16) (r : Reg) : (s.setStack a).readV r = s.readV r := rfl
@[simp] theorem readV_setSp (a : Fin 17) (r : Reg) : (s.setSp a).readV r = s.readV r := rfl
@[simp] theorem readV_setDt (a : Byte) (r : Reg) : (s.setDt a).readV r = s.readV r := rfl
@[simp] theorem readV_setSt (a : Byte) (r : Reg) : (s.setSt a).readV r = s.readV r := rfl
@[simp] theorem readV_setKeys (a : KeyMap) (r : Reg) : (s.setKeys a).readV r = s.readV r := rfl
@[simp] theorem readV_setKq (a : List KeyEvent) (r : Reg) : (s.setKq a).readV r = s.readV r := rfl
@[simp] theorem readV_setFb (a : Frame) (r : Reg) : (s.setFb a).readV r = s.readV r := rfl
@[simp] theorem readV_setMem (a : Memory) (r : Reg) : (s.setMem a).readV r = s.readV r := rfl
@[simp] theorem readV_setStatus (a : Status) (r : Reg) : (s.setStatus a).readV r = s.readV r := rfl
@[simp] theorem readV_setShut (a : Bool) (r : Reg) : (s.setShut a).readV r = s.readV r := rfl
@[simp] theorem readV_setDraws (a : Nat) (r : Reg) : (s.setDraws a).readV r = s.readV r := rfl
@[simp] theorem readV_setSched (a : List Turn) (r : Reg) : (s.setSched a).readV r = s.readV r := rfl
@[simp] theorem readV_setRegFile (a : Regs) (r : Reg) : (s.setRegFile a).readV r = a[r.val] := rfl
end

@[simp] theorem length_regBlock (v : Regs) (x : Reg) : (regBlock v x).length = blockLength x := by
  simp [regBlock, blockLength]

/-- The k-th byte of V0..Vx is V[k]. -/
@[simp] theorem getElem_regBlock (v : Regs) (x : Reg) (k : Nat) (h : k < (regBlock v x).length) :
    (regBlock v x)[k] = v[k]'(by rw [length_regBlock, blockLength] at h; have := x.isLt; omega) := by
  simp [regBlock]

/-- Everything a block load does to a register: from V[k] on the bytes of the list, elsewhere what was there. -/
theorem getElem_writeRegs (v : Regs) (k : Nat) (bs : List Byte) (r : Nat) (hr : r < 16) :
    (writeRegs v k bs)[r] = if k ≤ r then bs.getD (r - k) v[r] else v[r] := by
  induction bs generalizing v k with
  | nil => simp [writeRegs]
  | cons b bs ih =>
    rw [writeRegs, ih]
    rcases Nat.lt_trichotomy r k with h | h | h
    · rw [if_neg (by omega), if_neg (by omega), Vector.getElem_setIfInBounds, if_neg (by omega)]
    · subst h; rw [if_neg (by omega), if_pos (Nat.le_refl _)]; simp
    · obtain ⟨d, rfl⟩ : ∃ d, r = k + 1 + d := ⟨r - (k + 1), by omega⟩
      rw [if_pos (by omega), if_pos (by omega), Vector.getElem_setIfInBounds, if_neg (by omega)]
      have h1 : k + 1 + d - (k + 1) = d := by omega
      have h2 : k + 1 + d - k = d + 1 := by omega
      rw [h1, h2]; simp

/-! ### Flags -/

theorem flagByte_eq_one_iff {b : Bool} : flagByte b = 1#8 ↔ b = true := by cases b <;> decide

theorem flagByte_eq_zero_iff {b : Bool} : flagByte b = 0#8 ↔ b = false := by cases b <;> decide

/-! ### The stack -/

theorem push_eq_some {s : State} {w : Word} (h : s.sp.val < 16) :
    push s w = some ((s.setStack (s.stack.set s.sp.val w h)).setSp ⟨s.sp.val + 1, by omega⟩) := by
  simp [push, h]

theorem push_eq_none_iff {s : State} {w : Word} : push s w = none ↔ s.sp.val = 16 := by
  have := s.sp.isLt
  unfold push
  split <;> simp <;> omega

theorem pop_eq_none_iff {s : State} : pop s = none ↔ s.sp.val = 0 := by
  unfold pop
  split <;> simp_all

theorem pop_eq_some {s : State} (h : s.sp.val ≠ 0) :
    pop s = some (s.stack[s.sp.val - 1]'(by have := s.sp.isLt; omega),
      s.setSp ⟨s.sp.val - 1, by have := s.sp.isLt; omega⟩) := by
  simp [pop, h]

/-! ### Keys -/

theorem keyAt_eq_none_iff {s : State} {b : Byte} : s.keyAt b = none ↔ 0xF < b.toNat := by
  unfold State.keyAt
  split <;> simp <;> omega

theorem keyAt_eq_some {s : State} {b : Byte} (h : b.toNat < 16) : s.keyAt b = some s.keys[b.toNat] := by
  simp [State.keyAt, h]

theorem getElem_applyEvent (m : KeyMap) (e : KeyEvent) (k : Nat) (h : k < 16) :
    (applyEvent m e)[k] = if e.key.val = k then e.action == .pressed else m[k] := by
  simp [applyEvent, Vector.getElem_set]

/-! ### Timers -/

/-- A tick takes one from a counter, and never below zero (R307). -/
theorem toNat_countDown (b : Byte) : (countDown b).toNat = b.toNat - 1 := by
  have := b.isLt
  unfold countDown
  split
  · rw [BitVec.toNat_sub, BitVec.toNat_ofNat]; omega
  · omega

/-! ### The drain and the wait -/

section
variable (s : State)
@[simp] theorem drain_v : (drain s).v = s.v := rfl
@[simp] theorem drain_readV (r : Reg) : (drain s).readV r = s.readV r := rfl
@[simp] theorem drain_iReg : (drain s).iReg = s.iReg := rfl
@[simp] theorem drain_pc : (drain s).pc = s.pc := rfl
@[simp] theorem drain_stack : (drain s).stack = s.stack := rfl
@[simp] theorem drain_sp : (drain s).sp = s.sp := rfl
@[simp] theorem drain_dt : (drain s).dt = s.dt := rfl
@[simp] theorem drain_st : (drain s).st = s.st := rfl
@[simp] theorem drain_keys : (drain s).keys = s.kq.foldl applyEvent s.keys := rfl
@[simp] theorem drain_kq : (drain s).kq = [] := rfl
@[simp] theorem drain_fb : (drain s).fb = s.fb := rfl
@[simp] theorem drain_mem : (drain s).mem = s.mem := rfl
@[simp] theorem drain_status : (drain s).status = s.status := rfl
@[simp] theorem drain_shut : (drain s).shut = s.shut := rfl
@[simp] theorem drain_draws : (drain s).draws = s.draws := rfl
@[simp] theorem drain_sched : (drain s).sched = s.sched := rfl
end

/-- Everything a wait step does (R276, R277). -/
theorem waitStep_cases (x : Reg) (s : State) :
    (s.shut = true ∧ waitStep x s = s.setStatus .halted) ∨
    (s.shut = false ∧ s.kq = [] ∧ waitStep x s = s) ∨
    (∃ k rest, s.shut = false ∧ s.kq = ⟨k, .released⟩ :: rest ∧
      waitStep x s = (s.setKeys (applyEvent s.keys ⟨k, .released⟩)).setKq rest) ∨
    (∃ k rest, s.shut = false ∧ s.kq = ⟨k, .pressed⟩ :: rest ∧
      waitStep x s = (((((s.setKeys (applyEvent s.keys ⟨k, .pressed⟩)).setKq rest).writeV x
        (BitVec.ofNat 8 k.val)).setPc (s.pc + 2#16)).setStatus .running)) := by
  unfold waitStep
  by_cases hs : s.shut = true
  · exact .inl ⟨hs, by simp [hs]⟩
  · have hs : s.shut = false := by simpa using hs
    cases hq : s.kq with
    | nil => exact .inr (.inl ⟨hs, rfl, by simp [hs]⟩)
    | cons e rest =>
      obtain ⟨k, a⟩ := e
      cases a with
      | released => exact .inr (.inr (.inl ⟨k, rest, hs, rfl, by simp [hs, takeWaitEvent]⟩))
      | pressed => exact .inr (.inr (.inr ⟨k, rest, hs, rfl, by simp [hs, takeWaitEvent]⟩))

end Sys2Proof.Machine
end

