-- ==== Sys2Proof/Laws/Display.lean ====
section
/-! SUPPORT. The bytes a sprite row touches (R241, R242). -/

namespace Sys2Proof.Machine

/-- The fold of R241: the low byte is the next one, or seven back where the high byte is the last of its row. -/
theorem blitLo_val (px py k : Nat) :
    (blitLo px py k).val =
      if (blitHi px py k).val % 8 = 7 then (blitHi px py k).val - 7 else (blitHi px py k).val + 1 := by
  have := (blitHi px py k).isLt
  simp only [blitLo]
  split <;> split <;> omega

/-- "`hi` and `lo` are always distinct bytes of the same row" (R241). -/
theorem blitLo_same_row (px py k : Nat) :
    (blitLo px py k).val ≠ (blitHi px py k).val ∧ (blitLo px py k).val / 8 = (blitHi px py k).val / 8 := by
  rw [blitLo_val]
  split <;> omega

/-- Everything one sprite row does to a framebuffer byte (R242). -/
theorem getElem_blitRow (px py k : Nat) (b : Byte) (r : Frame × Bool) (j : Nat) (hj : j < 256) :
    (blitRow px py k b r).1[j] =
      if j = (blitHi px py k).val then r.1[j] ^^^ leftPart b px
      else if j = (blitLo px py k).val then r.1[j] ^^^ rightPart b px
      else r.1[j] := by
  have hne := (blitLo_same_row px py k).1
  simp only [blitRow, Vector.getElem_set]
  by_cases h1 : j = (blitHi px py k).val
  · subst h1; simp [hne]
  · by_cases h2 : j = (blitLo px py k).val
    · subst h2; simp [hne, hne.symm]
    · simp [h1, h2, Ne.symm h1, Ne.symm h2]

/-- The collision flag of one sprite row (R243): what it was, or a lit pixel under one of the two parts. -/
theorem blitRow_hit (px py k : Nat) (b : Byte) (r : Frame × Bool) :
    (blitRow px py k b r).2 = (r.2 || ((r.1[(blitHi px py k).val] &&& leftPart b px) != 0#8 ||
      (r.1[(blitLo px py k).val] &&& rightPart b px) != 0#8)) := rfl

@[simp] theorem blitRows_nil (px py k : Nat) (r : Frame × Bool) : blitRows px py k [] r = r := rfl

@[simp] theorem blitRows_cons (px py k : Nat) (b : Byte) (bs : List Byte) (r : Frame × Bool) :
    blitRows px py k (b :: bs) r = blitRows px py (k + 1) bs (blitRow px py k b r) := rfl

end Sys2Proof.Machine
end

