-- ==== Sys2Proof/Laws/Cycle.lean ====
section
/-! SUPPORT. What a step can do: one inversion lemma for the whole machine, and one for the engine's cycle. -/

namespace Sys2Proof.Machine

/-- In a live status a step is the next agent's turn. -/
theorem step_of_live {s : State} (h : s.status.live = true) :
    step s = takeTurn (nextTurn s) (s.setSched s.sched.tail) := by
  unfold step systemStep
  cases hs : s.status <;> simp_all [Status.live]

/-- A step that answers a next state is a turn in a live status. -/
theorem step_next {s t : State} (h : step s = .next t) :
    s.status.live = true ∧ takeTurn (nextTurn s) (s.setSched s.sched.tail) = .next t := by
  cases hs : s.status <;> simp_all [step, systemStep, Status.live]

/-- Everything a cycle can do (R120): the shutdown, the two faults before execute, or one operation. -/
theorem cycle_cases (s : State) :
    (s.shut = true ∧ cycle s = .next (s.setStatus .halted)) ∨
    (s.shut = false ∧ fetch s = none ∧ cycle s = raiseFault (drain s) .fetchOutOfRange s.pc.toNat) ∨
    (∃ w u, s.shut = false ∧ fetch s = some w ∧ decode w = .unknownOpcode u ∧
      cycle s = raiseFault (drain s) .unknownOpcode u.toNat) ∨
    (∃ w i, s.shut = false ∧ fetch s = some w ∧ decode w = .op i ∧ cycle s = exec i (drain s)) := by
  have hf : fetch (drain s) = fetch s := rfl
  by_cases hs : s.shut = true
  · exact .inl ⟨hs, by simp [cycle, hs]⟩
  · have hs : s.shut = false := by simpa using hs
    cases h1 : fetch s with
    | none => exact .inr (.inl ⟨hs, rfl, by simp [cycle, hs, fetchExecute, hf, h1]⟩)
    | some w =>
      cases h2 : decode w with
      | unknownOpcode u =>
        exact .inr (.inr (.inl ⟨w, u, hs, rfl, h2, by simp [cycle, hs, fetchExecute, hf, h1, h2]⟩))
      | op i => exact .inr (.inr (.inr ⟨w, i, hs, rfl, h2, by simp [cycle, hs, fetchExecute, hf, h1, h2]⟩))

/-! ### The wait step (R276, R277): shutdown, nothing queued, a release, a press -/

theorem waitStep_shutdown {x : Reg} {s : State} (h : s.shut = true) : waitStep x s = s.setStatus .halted := by
  simp [waitStep, h]

theorem waitStep_held {x : Reg} {s : State} (h : s.shut = false) (hq : s.kq = []) : waitStep x s = s := by
  simp [waitStep, h, hq]

theorem waitStep_release {x : Reg} {s : State} {k : Key} {rest : List KeyEvent} (h : s.shut = false)
    (hq : s.kq = ⟨k, .released⟩ :: rest) : waitStep x s = (s.setKeys (s.keys.set k.val false)).setKq rest := by
  simp only [waitStep, h, hq]
  rfl

theorem waitStep_press {x : Reg} {s : State} {k : Key} {rest : List KeyEvent} (h : s.shut = false)
    (hq : s.kq = ⟨k, .pressed⟩ :: rest) :
    waitStep x s = ((((s.setKeys (s.keys.set k.val true)).setKq rest).writeV x (BitVec.ofNat 8 k.val)).setPc
      (s.pc + 2#16)).setStatus .running := by
  simp only [waitStep, h, hq]
  rfl

/-- The fetch reads the two bytes at pc, up to 0xFFE (R53). -/
theorem fetch_eq_none_iff {s : State} : fetch s = none ↔ 0xFFE < s.pc.toNat := by
  unfold fetch
  split <;> simp <;> omega

theorem fetch_eq_some {s : State} (h : s.pc.toNat ≤ 0xFFE) :
    fetch s = some (wordOfBytes (s.mem.read s.pc.toNat) (s.mem.read (s.pc.toNat + 1))) := by
  unfold fetch
  rw [if_neg (by omega)]

end Sys2Proof.Machine
end

