-- ==== Sys2Proof/Laws/Decode.lean ====
section
/-! SUPPORT. The fields of the words the encoder builds, and the byte order. -/

namespace Sys2Proof

theorem toNat_encodeA {op : Nat} (nnn : Addr12) (h : op < 16) : (encodeA op nnn).toNat = op * 4096 + nnn.toNat := by
  have := nnn.isLt
  simp only [encodeA, BitVec.toNat_ofNat]; omega

theorem toNat_encodeXKK {op : Nat} (x : Reg) (kk : Byte) (h : op < 16) :
    (encodeXKK op x kk).toNat = op * 4096 + x.val * 256 + kk.toNat := by
  have := x.isLt; have := kk.isLt
  simp only [encodeXKK, BitVec.toNat_ofNat]; omega

theorem toNat_encodeXYN {op : Nat} (x y : Reg) (n : Fin 16) (h : op < 16) :
    (encodeXYN op x y n).toNat = op * 4096 + x.val * 256 + y.val * 16 + n.val := by
  have := x.isLt; have := y.isLt; have := n.isLt
  simp only [encodeXYN, BitVec.toNat_ofNat]; omega

section
variable {op : Nat} (h : op < 16)
include h

theorem opField_encodeA (nnn : Addr12) : opField (encodeA op nnn) = op := by
  have := nnn.isLt
  simp only [opField, bits, toNat_encodeA nnn h]; omega

theorem nnnField_encodeA (nnn : Addr12) : nnnField (encodeA op nnn) = nnn := by
  have := nnn.isLt
  apply BitVec.eq_of_toNat_eq
  simp only [nnnField, bits, toNat_encodeA nnn h, BitVec.toNat_ofNat]; omega

theorem opField_encodeXKK (x : Reg) (kk : Byte) : opField (encodeXKK op x kk) = op := by
  have := x.isLt; have := kk.isLt
  simp only [opField, bits, toNat_encodeXKK x kk h]; omega

theorem xField_encodeXKK (x : Reg) (kk : Byte) : xField (encodeXKK op x kk) = x := by
  have := x.isLt; have := kk.isLt
  apply Fin.ext
  simp only [xField, bits, toNat_encodeXKK x kk h]; omega

theorem kkField_encodeXKK (x : Reg) (kk : Byte) : kkField (encodeXKK op x kk) = kk := by
  have := x.isLt; have := kk.isLt
  apply BitVec.eq_of_toNat_eq
  simp only [kkField, bits, toNat_encodeXKK x kk h, BitVec.toNat_ofNat]; omega

theorem opField_encodeXYN (x y : Reg) (n : Fin 16) : opField (encodeXYN op x y n) = op := by
  have := x.isLt; have := y.isLt; have := n.isLt
  simp only [opField, bits, toNat_encodeXYN x y n h]; omega

theorem xField_encodeXYN (x y : Reg) (n : Fin 16) : xField (encodeXYN op x y n) = x := by
  have := x.isLt; have := y.isLt; have := n.isLt
  apply Fin.ext
  simp only [xField, bits, toNat_encodeXYN x y n h]; omega

theorem yField_encodeXYN (x y : Reg) (n : Fin 16) : yField (encodeXYN op x y n) = y := by
  have := x.isLt; have := y.isLt; have := n.isLt
  apply Fin.ext
  simp only [yField, bits, toNat_encodeXYN x y n h]; omega

theorem nField_encodeXYN (x y : Reg) (n : Fin 16) : nField (encodeXYN op x y n) = n := by
  have := x.isLt; have := y.isLt; have := n.isLt
  apply Fin.ext
  simp only [nField, bits, toNat_encodeXYN x y n h]; omega

end

/-- A word is its op, x, y and n nibbles (R81). -/
theorem toNat_eq_nibbles (w : Word) :
    w.toNat = opField w * 4096 + (xField w).val * 256 + (yField w).val * 16 + (nField w).val := by
  have := w.isLt
  simp only [opField, xField, yField, nField, bits]; omega

/-- A word is its op, x and kk fields (R81). -/
theorem toNat_eq_op_x_kk (w : Word) : w.toNat = opField w * 4096 + (xField w).val * 256 + (kkField w).toNat := by
  have := w.isLt
  simp only [opField, xField, kkField, bits, BitVec.toNat_ofNat]; omega

/-- A word is its op and nnn fields (R81). -/
theorem toNat_eq_op_nnn (w : Word) : w.toNat = opField w * 4096 + (nnnField w).toNat := by
  have := w.isLt
  simp only [opField, nnnField, bits, BitVec.toNat_ofNat]; omega

theorem opField_lt (w : Word) : opField w < 16 := Nat.mod_lt _ (by decide)

/-- The two bytes of a word, put together again, are the word (R52). -/
theorem wordOfBytes_bytesOfWord (w : Word) :
    wordOfBytes (BitVec.ofNat 8 (bits w 15 8)) (BitVec.ofNat 8 (bits w 7 0)) = w := by
  have := w.isLt
  apply BitVec.eq_of_toNat_eq
  simp only [wordOfBytes, bits, BitVec.toNat_ofNat]; omega

/-- The decoder reads a laid-out word as that word, and leaves the bytes after it. -/
theorem decodeBytes_bytesOfWord (w : Word) (rest : List Byte) :
    decodeBytes (bytesOfWord w ++ rest) = some (decode w, rest) := by
  simp [bytesOfWord, decodeBytes, wordOfBytes_bytesOfWord]

end Sys2Proof
end

