-- ==== Sys2Proof/Laws/PerInstr.lean ====
section
/-! SUPPORT. The family EncodedOpcode: the primary opcode nibble (R81, R87) that the encoder gives each operation. -/

namespace Sys2Proof.Laws

/-- The first hex digit of each row of R87. -/
def opcodeNibble : Instr → Nat
  | .cls => 0x0
  | .ret => 0x0
  | .jp _ => 0x1
  | .call _ => 0x2
  | .seImm _ _ => 0x3
  | .sneImm _ _ => 0x4
  | .seReg _ _ => 0x5
  | .sneReg _ _ => 0x9
  | .ldImm _ _ => 0x6
  | .ldReg _ _ => 0x8
  | .addImm _ _ => 0x7
  | .addReg _ _ => 0x8
  | .or _ _ => 0x8
  | .and _ _ => 0x8
  | .xor _ _ => 0x8
  | .sub _ _ => 0x8
  | .shr _ => 0x8
  | .shl _ => 0x8
  | .ldI _ => 0xA
  | .addI _ => 0xF
  | .ldF _ => 0xF
  | .ldB _ => 0xF
  | .storeRegs _ => 0xF
  | .loadRegs _ => 0xF
  | .rnd _ _ => 0xC
  | .drw _ _ _ => 0xD
  | .skp _ => 0xE
  | .sknp _ => 0xE
  | .waitKey _ => 0xF
  | .ldVDt _ => 0xF
  | .ldDtV _ => 0xF
  | .sys _ => 0x0

/-- The word of an operation carries the operation's opcode nibble. -/
def EncodedOpcode.Statement (i : Instr) : Prop := opField (encode i) = opcodeNibble i

open EncodedOpcode (Statement)

theorem EncodedOpcode.cls : Statement .cls := rfl
theorem EncodedOpcode.ret : Statement .ret := rfl
theorem EncodedOpcode.jp (nnn : Addr12) : Statement (.jp nnn) := opField_encodeA (by decide) nnn
theorem EncodedOpcode.call (nnn : Addr12) : Statement (.call nnn) := opField_encodeA (by decide) nnn
theorem EncodedOpcode.ldI (nnn : Addr12) : Statement (.ldI nnn) := opField_encodeA (by decide) nnn
theorem EncodedOpcode.sys (nnn : Addr12) : Statement (.sys nnn) := opField_encodeA (by decide) nnn
theorem EncodedOpcode.seImm (x : Reg) (kk : Byte) : Statement (.seImm x kk) := opField_encodeXKK (by decide) x kk
theorem EncodedOpcode.sneImm (x : Reg) (kk : Byte) : Statement (.sneImm x kk) := opField_encodeXKK (by decide) x kk
theorem EncodedOpcode.ldImm (x : Reg) (kk : Byte) : Statement (.ldImm x kk) := opField_encodeXKK (by decide) x kk
theorem EncodedOpcode.addImm (x : Reg) (kk : Byte) : Statement (.addImm x kk) := opField_encodeXKK (by decide) x kk
theorem EncodedOpcode.rnd (x : Reg) (kk : Byte) : Statement (.rnd x kk) := opField_encodeXKK (by decide) x kk
theorem EncodedOpcode.addI (x : Reg) : Statement (.addI x) := opField_encodeXKK (by decide) x _
theorem EncodedOpcode.ldF (x : Reg) : Statement (.ldF x) := opField_encodeXKK (by decide) x _
theorem EncodedOpcode.ldB (x : Reg) : Statement (.ldB x) := opField_encodeXKK (by decide) x _
theorem EncodedOpcode.storeRegs (x : Reg) : Statement (.storeRegs x) := opField_encodeXKK (by decide) x _
theorem EncodedOpcode.loadRegs (x : Reg) : Statement (.loadRegs x) := opField_encodeXKK (by decide) x _
theorem EncodedOpcode.skp (x : Reg) : Statement (.skp x) := opField_encodeXKK (by decide) x _
theorem EncodedOpcode.sknp (x : Reg) : Statement (.sknp x) := opField_encodeXKK (by decide) x _
theorem EncodedOpcode.waitKey (x : Reg) : Statement (.waitKey x) := opField_encodeXKK (by decide) x _
theorem EncodedOpcode.ldVDt (x : Reg) : Statement (.ldVDt x) := opField_encodeXKK (by decide) x _
theorem EncodedOpcode.ldDtV (x : Reg) : Statement (.ldDtV x) := opField_encodeXKK (by decide) x _
theorem EncodedOpcode.seReg (x y : Reg) : Statement (.seReg x y) := opField_encodeXYN (by decide) x y _
theorem EncodedOpcode.sneReg (x y : Reg) : Statement (.sneReg x y) := opField_encodeXYN (by decide) x y _
theorem EncodedOpcode.ldReg (x y : Reg) : Statement (.ldReg x y) := opField_encodeXYN (by decide) x y _
theorem EncodedOpcode.addReg (x y : Reg) : Statement (.addReg x y) := opField_encodeXYN (by decide) x y _
theorem EncodedOpcode.or (x y : Reg) : Statement (.or x y) := opField_encodeXYN (by decide) x y _
theorem EncodedOpcode.and (x y : Reg) : Statement (.and x y) := opField_encodeXYN (by decide) x y _
theorem EncodedOpcode.xor (x y : Reg) : Statement (.xor x y) := opField_encodeXYN (by decide) x y _
theorem EncodedOpcode.sub (x y : Reg) : Statement (.sub x y) := opField_encodeXYN (by decide) x y _
theorem EncodedOpcode.shr (x : Reg) : Statement (.shr x) := opField_encodeXYN (by decide) x 0 _
theorem EncodedOpcode.shl (x : Reg) : Statement (.shl x) := opField_encodeXYN (by decide) x 0 _
theorem EncodedOpcode.drw (x y : Reg) (n : Fin 16) : Statement (.drw x y n) := opField_encodeXYN (by decide) x y n

end Sys2Proof.Laws
end

