-- ==== Sys2Proof/Tests/Slice0.lean ====
section
/-! SUPPORT. Tests. Expected results are the spec's: the worked examples and vectors of spec/95_test_vectors.md, named in
each comment, and the encodings of spec/30_encoding.md R87. After them, a witness for the hypotheses of each statement
of Certificates/Slice0/Obligations.lean. -/

namespace Sys2Proof.Tests

open Sys2Proof Sys2Proof.Machine

/-! ### Helpers -/

/-- The next state of an answer, if it is one. -/
def after : Outcome → Option State
  | .next t => some t
  | .fault _ => none
  | .refused _ => none

/-- A word placed where reset fetches. -/
def load (w : Word) (s : State) : State := s.setMem (storeBytes s.mem 0x200 (bytesOfWord w))

/-- Bytes placed in memory. -/
def bytesAt (a : Nat) (bs : List Byte) (s : State) : State := s.setMem (storeBytes s.mem a bs)

/-- Two registers set. -/
def regs2 (x : Reg) (a : Byte) (y : Reg) (b : Byte) (s : State) : State := (s.writeV x a).writeV y b

/-- The state after one step from 0x200 that executes a word. -/
def stepWord (w : Word) (s : State) : Option State := after (step (load w s))

/-- What a test looks at: a register, VF and pc. -/
def look (x : Reg) (o : Option State) : Option (Byte × Byte × Word) := o.map fun t => (t.readV x, t.readV vf, t.pc)

/-- What a test looks at: pc and the status. -/
def lookPc (o : Option State) : Option (Word × Status) := o.map fun t => (t.pc, t.status)

/-- What a test looks at: I, three bytes of memory and the status. -/
def lookMem (a : Nat) (o : Option State) : Option (Word × List Byte × Status) :=
  o.map fun t => (t.iReg, readBytes t.mem a 3, t.status)

/-- What a test looks at: two framebuffer bytes and VF. -/
def lookFb (i j : Fin 256) (o : Option State) : Option (Byte × Byte × Byte) :=
  o.map fun t => (t.fb[i.val], t.fb[j.val], t.readV vf)

/-! ### WellFormed: the ill-formed terms of its one check (R87 row 32) -/

theorem test_sys_0E0_is_ill_formed : (Instr.sys 0x0E0#12).wellFormed = false := by decide
theorem test_sys_0EE_is_ill_formed : (Instr.sys 0x0EE#12).wellFormed = false := by decide
theorem test_sys_0E1_is_well_formed : (Instr.sys 0x0E1#12).wellFormed = true := by decide

/-! ### Decode: the words of section 2.1, each written from R87 -/

theorem test_decode_family_0 :
    decode 0x00E0#16 = .op .cls ∧ decode 0x00EE#16 = .op .ret ∧ decode 0x0000#16 = .op (.sys 0x000#12) ∧
    decode 0x00E1#16 = .op (.sys 0x0E1#12) ∧ decode 0x0FFF#16 = .op (.sys 0xFFF#12) := by decide

theorem test_decode_jumps_and_skips :
    decode 0x1ABC#16 = .op (.jp 0xABC#12) ∧ decode 0x2300#16 = .op (.call 0x300#12) ∧
    decode 0x3A55#16 = .op (.seImm 0xA 0x55#8) ∧ decode 0x4A55#16 = .op (.sneImm 0xA 0x55#8) ∧
    decode 0x5120#16 = .op (.seReg 1 2) ∧ decode 0x9120#16 = .op (.sneReg 1 2) := by decide

theorem test_decode_immediates :
    decode 0x6A42#16 = .op (.ldImm 0xA 0x42#8) ∧ decode 0x7A01#16 = .op (.addImm 0xA 0x01#8) ∧
    decode 0xA123#16 = .op (.ldI 0x123#12) ∧ decode 0xC10F#16 = .op (.rnd 1 0x0F#8) := by decide

theorem test_decode_family_8 :
    decode 0x8120#16 = .op (.ldReg 1 2) ∧ decode 0x8121#16 = .op (.or 1 2) ∧ decode 0x8122#16 = .op (.and 1 2) ∧
    decode 0x8123#16 = .op (.xor 1 2) ∧ decode 0x8124#16 = .op (.addReg 1 2) ∧ decode 0x8125#16 = .op (.sub 1 2) ∧
    decode 0x8126#16 = .op (.shr 1) ∧ decode 0x81F6#16 = .op (.shr 1) ∧ decode 0x812E#16 = .op (.shl 1) := by decide

theorem test_decode_draw_and_keys :
    decode 0xD125#16 = .op (.drw 1 2 5) ∧ decode 0xD120#16 = .op (.drw 1 2 0) ∧ decode 0xE59E#16 = .op (.skp 5) ∧
    decode 0xE5A1#16 = .op (.sknp 5) := by decide

theorem test_decode_family_F :
    decode 0xF307#16 = .op (.ldVDt 3) ∧ decode 0xF30A#16 = .op (.waitKey 3) ∧ decode 0xF315#16 = .op (.ldDtV 3) ∧
    decode 0xF31E#16 = .op (.addI 3) ∧ decode 0xF329#16 = .op (.ldF 3) ∧ decode 0xF333#16 = .op (.ldB 3) ∧
    decode 0xF355#16 = .op (.storeRegs 3) ∧ decode 0xF365#16 = .op (.loadRegs 3) := by decide

theorem test_decode_illegal :
    decode 0x5121#16 = .unknownOpcode 0x5121#16 ∧ decode 0x8127#16 = .unknownOpcode 0x8127#16 ∧
    decode 0x812F#16 = .unknownOpcode 0x812F#16 ∧ decode 0x912F#16 = .unknownOpcode 0x912F#16 ∧
    decode 0xB123#16 = .unknownOpcode 0xB123#16 ∧ decode 0xE5A2#16 = .unknownOpcode 0xE5A2#16 ∧
    decode 0xF018#16 = .unknownOpcode 0xF018#16 ∧ decode 0xF0FF#16 = .unknownOpcode 0xF0FF#16 := by decide

/-- S1 and S2: the source's own byte pairs, the high byte first. -/
theorem test_decode_bytes :
    decodeBytes [0xA1#8, 0x23#8, 0x82#8] = some (.op (.ldI 0x123#12), [0x82#8]) ∧
    decodeBytes [0x82#8, 0x74#8] = some (.op (.addReg 2 7), []) ∧ decodeBytes [0xA1#8] = none := by decide

theorem test_decode_table_word :
    decodeTableWord 16 0x8274 = some (.addReg 2 7) ∧ decodeTableWord 16 0xB123 = none := by decide

/-! ### Register loads and the ALU: section 2.2 -/

/-- A35. -/
theorem test_ld_imm : look 0xA (stepWord 0x6A42#16 State.reset) = some (0x42#8, 0x00#8, 0x202#16) := by decide

/-- A30: VF unchanged. -/
theorem test_ld_reg :
    look 0 (stepWord 0x8010#16 ((regs2 0 0x11#8 1 0x99#8 State.reset).writeV vf 0x55#8)) =
      some (0x99#8, 0x55#8, 0x202#16) := by decide

/-- A32: no carry into VF. -/
theorem test_add_imm_wraps :
    look 0 (stepWord 0x7002#16 (State.reset.writeV 0 0xFF#8)) = some (0x01#8, 0x00#8, 0x202#16) := by decide

/-- A34: VF as the destination only. -/
theorem test_add_imm_vf : look vf (stepWord 0x7F01#16 (State.reset.writeV vf 0xFF#8)) =
    some (0x00#8, 0x00#8, 0x202#16) := by decide

/-- A3 (the source's S3). -/
theorem test_add_reg_carry :
    look 3 (stepWord 0x8374#16 (regs2 3 0x01#8 7 0xFF#8 State.reset)) = some (0x00#8, 0x01#8, 0x202#16) := by decide

/-- A6: with x = F the flag is written last. -/
theorem test_add_reg_vf :
    look vf (stepWord 0x8F14#16 (regs2 vf 0xFF#8 1 0x02#8 State.reset)) = some (0x01#8, 0x01#8, 0x202#16) := by decide

/-- A26. -/
theorem test_or :
    look 0 (stepWord 0x8011#16 ((regs2 0 0x0F#8 1 0xF0#8 State.reset).writeV vf 0x55#8)) =
      some (0xFF#8, 0x55#8, 0x202#16) := by decide

/-- A27. -/
theorem test_and :
    look 0 (stepWord 0x8012#16 ((regs2 0 0x3C#8 1 0x0F#8 State.reset).writeV vf 0x55#8)) =
      some (0x0C#8, 0x55#8, 0x202#16) := by decide

/-- A28. -/
theorem test_xor :
    look 0 (stepWord 0x8013#16 ((regs2 0 0x3C#8 1 0x0F#8 State.reset).writeV vf 0x55#8)) =
      some (0x33#8, 0x55#8, 0x202#16) := by decide

/-- A10: not-borrow is strict. -/
theorem test_sub_equal :
    look 0 (stepWord 0x8015#16 ((regs2 0 0x05#8 1 0x05#8 State.reset).writeV vf 0x01#8)) =
      some (0x00#8, 0x00#8, 0x202#16) := by decide

/-- A16: y = F. -/
theorem test_sub_from_vf :
    look 0 (stepWord 0x80F5#16 (regs2 0 0x10#8 vf 0x01#8 State.reset)) = some (0x0F#8, 0x01#8, 0x202#16) := by decide

/-- A20: y is ignored. -/
theorem test_shr :
    look 0 (stepWord 0x8016#16 (regs2 0 0x03#8 1 0x77#8 State.reset)) = some (0x01#8, 0x01#8, 0x202#16) := by decide

/-- A21: x = F. -/
theorem test_shr_vf : look vf (stepWord 0x8F06#16 (State.reset.writeV vf 0xFF#8)) =
    some (0x00#8, 0x00#8, 0x202#16) := by decide

/-- A22. -/
theorem test_shl : look 0 (stepWord 0x800E#16 (State.reset.writeV 0 0x81#8)) =
    some (0x02#8, 0x01#8, 0x202#16) := by decide

/-- A24: x = F. -/
theorem test_shl_vf : look vf (stepWord 0x8F0E#16 (State.reset.writeV vf 0x80#8)) =
    some (0x02#8, 0x02#8, 0x202#16) := by decide

/-- A37: kk = 0, whatever byte is drawn. -/
theorem test_rnd_masked : look 1 (stepWord 0xC100#16 State.reset) = some (0x00#8, 0x00#8, 0x202#16) := by
  have h : ∀ r : Byte, 0x00#8 &&& r = 0x00#8 := by decide
  show some (0x00#8 &&& Config.randomByte 0, 0x00#8, 0x202#16) = _
  rw [h]

/-! ### Control transfer: section 2.4 -/

/-- Q14. -/
theorem test_sys : lookPc (stepWord 0x0123#16 State.reset) = some (0x202#16, .running) := by decide

/-- Q1. -/
theorem test_jp : lookPc (stepWord 0x1ABC#16 State.reset) = some (0xABC#16, .running) := by decide

/-- Q3: the CALL's own address is pushed. -/
theorem test_call : (stepWord 0x2300#16 State.reset).map (fun t => (t.pc, t.sp, t.stack[0])) =
    some (0x300#16, 1, 0x200#16) := by decide

/-- Q6. -/
theorem test_call_overflow : lookPc (stepWord 0x2300#16 (State.reset.setSp 16)) =
    some (0x200#16, .faulted .stackOverflow 0x200) := by decide

/-- Q4. -/
theorem test_ret :
    (stepWord 0x00EE#16 ((State.reset.setStack (State.reset.stack.set 0 0x204#16)).setSp 1)).map
      (fun t => (t.pc, t.sp)) = some (0x206#16, 0) := by decide

/-- Q5. -/
theorem test_ret_underflow : lookPc (stepWord 0x00EE#16 State.reset) =
    some (0x200#16, .faulted .stackUnderflow 0x200) := by decide

/-- Q7 and Q8. -/
theorem test_se_imm :
    lookPc (stepWord 0x3310#16 (State.reset.writeV 3 0x10#8)) = some (0x204#16, .running) ∧
    lookPc (stepWord 0x3311#16 (State.reset.writeV 3 0x10#8)) = some (0x202#16, .running) := by decide

/-- Q9 and Q10. -/
theorem test_sne_imm :
    lookPc (stepWord 0x4311#16 (State.reset.writeV 3 0x10#8)) = some (0x204#16, .running) ∧
    lookPc (stepWord 0x4310#16 (State.reset.writeV 3 0x10#8)) = some (0x202#16, .running) := by decide

/-- Q11, and V1 ≠ V2. -/
theorem test_se_reg :
    lookPc (stepWord 0x5110#16 State.reset) = some (0x204#16, .running) ∧
    lookPc (stepWord 0x5120#16 (State.reset.writeV 2 0x01#8)) = some (0x202#16, .running) := by decide

/-- Q12, and V1 ≠ V2. -/
theorem test_sne_reg :
    lookPc (stepWord 0x9110#16 State.reset) = some (0x202#16, .running) ∧
    lookPc (stepWord 0x9120#16 (State.reset.writeV 2 0x01#8)) = some (0x204#16, .running) := by decide

/-- Q13: an illegal word. -/
theorem test_unknown_opcode : lookPc (stepWord 0x5121#16 State.reset) =
    some (0x200#16, .faulted .unknownOpcode 0x5121) := by decide

/-- Q2, second cycle: pc = 0xFFF is no fetchable address. -/
theorem test_fetch_out_of_range : lookPc (after (step (State.reset.setPc 0xFFF#16))) =
    some (0xFFF#16, .faulted .fetchOutOfRange 0xFFF) := by decide

/-- Q20: the largest pc. -/
theorem test_skip_past_the_end :
    lookPc (after (step (bytesAt 0xFFE [0x30#8, 0x00#8] (State.reset.setPc 0xFFE#16)))) =
      some (0x1002#16, .running) := by decide

/-- Q22. -/
theorem test_shutdown : lookPc (stepWord 0x1ABC#16 (State.reset.setShut true)) = some (0x200#16, .halted) := by decide

/-! ### The index register and memory: section 2.3 -/

/-- M21. -/
theorem test_ld_i : (stepWord 0xA123#16 State.reset).map (·.iReg) = some 0x0123#16 := by decide

/-- M2. -/
theorem test_add_i : (stepWord 0xF01E#16 ((State.reset.setI 0xFF00#16).writeV 0 0xFF#8)).map
    (fun t => (t.iReg, t.status)) = some (0xFFFF#16, .running) := by decide

/-- M3. -/
theorem test_add_i_overflow : (stepWord 0xF01E#16 ((State.reset.setI 0xFFFF#16).writeV 0 0x01#8)).map
    (fun t => (t.iReg, t.pc, t.status)) = some (0xFFFF#16, 0x200#16, .faulted .indexOverflow 0x10000) := by decide

/-- M5 and M6: the digit is not masked. -/
theorem test_ld_f :
    (stepWord 0xF229#16 (State.reset.writeV 2 0x10#8)).map (·.iReg) = some 0x0050#16 ∧
    (stepWord 0xF229#16 (State.reset.writeV 2 0xFF#8)).map (·.iReg) = some 0x04FB#16 := by decide

/-- M7 (the source's S10). -/
theorem test_ld_b : lookMem 0x300 (stepWord 0xF033#16 ((State.reset.setI 0x300#16).writeV 0 0xFE#8)) =
    some (0x300#16, [2#8, 5#8, 4#8], .running) := by decide

/-- M12: the whole range is checked before a byte is written. -/
theorem test_ld_b_fault : lookMem 0xFFD (stepWord 0xF033#16 ((State.reset.setI 0xFFE#16).writeV 0 0x7B#8)) =
    some (0xFFE#16, [0#8, 0#8, 0#8], .faulted .addressOutOfRange 0x1000) := by decide

/-- M14. -/
theorem test_store_regs :
    lookMem 0x400 (stepWord 0xF255#16 (((regs2 0 1#8 1 2#8 State.reset).writeV 2 3#8).setI 0x400#16)) =
      some (0x403#16, [1#8, 2#8, 3#8], .running) := by decide

/-- M16: the last block that fits. -/
theorem test_store_all_regs :
    lookMem 0xFFD (stepWord 0xFF55#16 ((State.reset.writeV vf 0xEE#8).setI 0xFF0#16)) =
      some (0x1000#16, [0#8, 0#8, 0xEE#8], .running) := by decide

/-- M18. -/
theorem test_load_regs :
    (stepWord 0xF265#16 (bytesAt 0x300 [2#8, 5#8, 4#8] (State.reset.setI 0x300#16))).map
      (fun t => (t.readV 0, t.readV 1, t.readV 2, t.readV 3, t.iReg)) =
      some (2#8, 5#8, 4#8, 0#8, 0x303#16) := by decide

/-- M20. -/
theorem test_load_regs_fault : lookPc (stepWord 0xF065#16 (State.reset.setI 0x1000#16)) =
    some (0x200#16, .faulted .addressOutOfRange 0x1000) := by decide

/-! ### The display: section 2.5 -/

/-- D15. -/
theorem test_cls :
    lookFb 0x0A 0 (stepWord 0x00E0#16 ((State.reset.setFb (State.reset.fb.set 0x0A 0xFF#8)).writeV vf 0x07#8)) =
      some (0x00#8, 0x00#8, 0x07#8) := by decide +kernel

/-- D2 (the source's S7): the offset splits the byte, and lit pixels go out. -/
theorem test_drw_collision :
    lookFb 8 9 (stepWord 0xD011#16 (bytesAt 0x300 [0x77#8] ((regs2 0 4#8 1 1#8 State.reset).setI 0x300#16 |>.setFb
      ((State.reset.fb.set 8 0x0F#8).set 9 0xF0#8)))) = some (0x08#8, 0x80#8, 0x01#8) := by decide +kernel

/-- D5: both wraps; row 1 of the sprite, from row 31 to row 0. -/
theorem test_drw_wraps :
    lookFb 0x07 0x00 (stepWord 0xD012#16 (bytesAt 0x300 [0xC0#8, 0xC0#8]
      ((regs2 0 63#8 1 31#8 State.reset).setI 0x300#16))) = some (0x01#8, 0x80#8, 0x00#8) := by decide +kernel

/-! ### The delay counter and the keys: section 2.6 -/

/-- T1. -/
theorem test_ld_dt : (stepWord 0xF315#16 (State.reset.writeV 3 0x3C#8)).map (·.dt) = some 0x3C#8 := by decide

/-- T2. -/
theorem test_ld_v_dt : look 3 (stepWord 0xF307#16 (State.reset.setDt 0x20#8)) =
    some (0x20#8, 0x00#8, 0x202#16) := by decide

/-- T3 and T4. -/
theorem test_tick :
    (after (step ((State.reset.setSched [.timer]).setDt 5#8))).map (fun t => (t.dt, t.st)) = some (4#8, 0#8) ∧
    (after (step (State.reset.setSched [.timer]))).map (fun t => (t.dt, t.st)) = some (0#8, 0#8) := by decide

/-- T10: the drain runs before the execute. -/
theorem test_skp_after_drain :
    lookPc (stepWord 0xE59E#16 ((State.reset.writeV 5 7#8).setKq [⟨7, .pressed⟩])) = some (0x204#16, .running) := by
  decide

/-- T9. -/
theorem test_skp_fault : lookPc (stepWord 0xE59E#16 (State.reset.writeV 5 0x10#8)) =
    some (0x200#16, .faulted .keyIndexOutOfRange 0x10) := by decide

/-- T7 and T8. -/
theorem test_sknp :
    lookPc (stepWord 0xE5A1#16 (State.reset.writeV 5 7#8)) = some (0x204#16, .running) ∧
    lookPc (stepWord 0xE5A1#16 ((State.reset.writeV 5 7#8).setKeys (State.reset.keys.set 7 true))) =
      some (0x202#16, .running) := by decide

/-- T12: the wait begins, and a held key does not satisfy it. -/
theorem test_wait_key :
    lookPc (stepWord 0xF20A#16 (State.reset.setKeys (State.reset.keys.set 3 true))) =
      some (0x200#16, .waitKey 2) := by decide

/-- T11, its second wait step: the press ends the wait and the event behind it stays queued. -/
theorem test_wait_step :
    (after (step ((State.reset.setStatus (.waitKey 2)).setKq [⟨9, .pressed⟩, ⟨1, .pressed⟩]))).map
      (fun t => (t.readV 2, t.keys[9], t.pc, t.status, t.kq)) =
      some (9#8, true, 0x202#16, .running, [⟨1, .pressed⟩]) := by decide

/-- T11, its first wait step: the release clears its key, and the wait goes on. -/
theorem test_wait_step_release :
    (after (step (((State.reset.setStatus (.waitKey 2)).setKeys (State.reset.keys.set 4 true)).setKq
      [⟨4, .released⟩]))).map (fun t => (t.keys[4], t.pc, t.status, t.kq)) =
      some (false, 0x200#16, .waitKey 2, []) := by decide

/-! ### The machine -/

/-- The numbers of R301. -/
theorem test_fault_numbers :
    [FaultCode.unknownOpcode, .fetchOutOfRange, .addressOutOfRange, .stackOverflow, .stackUnderflow, .indexOverflow,
      .keyIndexOutOfRange].map FaultCode.number = [1, 2, 3, 4, 5, 6, 7] := by decide

/-- A program word placed from outside is what the next step runs. -/
theorem test_with_fetch_word :
    (after (step (State.reset.withFetchWord 16 0x6A42))).map (·.readV 0xA) = some 0x42#8 ∧
    (after (step ((State.reset.setPc 0xFFFF#16).withFetchWord 16 0x1ABC))).map (·.pc) = some 0xABC#16 := by decide

/-- The default font: the glyph of digit 1 at 5 (R353), and the first byte past the table. -/
theorem test_font : readBytes State.reset.mem 5 5 = [0x20#8, 0x60#8, 0x20#8, 0x20#8, 0x70#8] ∧
    State.reset.mem.read 0x50 = 0#8 := by decide

/-- Writing the construction value takes the entry out again. -/
theorem test_memory_canonical :
    Memory.write (Memory.write [] 0x300 7#8) 0x300 0#8 = [] ∧ Memory.write [] 0 0xF0#8 = [] ∧
    Memory.write (Memory.write [] 0x300 7#8) 0x200 1#8 = [(0x200, 1#8), (0x300, 7#8)] := by decide

/-! ### Witnesses: a state and operands that meet the hypotheses of each statement, at the ends of each clause's range -/

/-- Both sides of the one case the check refuses. -/
theorem witness_DecodeOfEncodeIsTheOperation :
    (Instr.sys 0x0DF#12).wellFormed = true ∧ (Instr.sys 0x0EF#12).wellFormed = true ∧
    (Instr.drw 15 15 15).wellFormed = true := by decide

theorem witness_EncodeOfDecodeIsTheWord :
    decode 0x81F6#16 = .op (.shr 1) ∧ encode (.shr 1) = 0x8106#16 ∧ decode 0x8FFE#16 = .op (.shl 15) ∧
    decode 0x8FF5#16 = .op (.sub 15 15) := by decide

/-- One illegal word of each line of R89, at an end of its range. -/
theorem witness_IllegalWordsAreUnknownOpcode :
    IllegalWord 0x5121#16 ∧ IllegalWord 0x8127#16 ∧ IllegalWord 0x812F#16 ∧ IllegalWord 0x912F#16 ∧
    IllegalWord 0xB000#16 ∧ IllegalWord 0xE59F#16 ∧ IllegalWord 0xF066#16 ∧ ¬ IllegalWord 0x812E#16 := by
  refine ⟨?_, ?_, ?_, ?_, ?_, ?_, ?_, ?_⟩ <;> unfold IllegalWord <;> decide

theorem witness_DecodeOfImageBytes : (Instr.sys 0x0E1#12).wellFormed = true := by decide

theorem witness_LoadsSetOneRegister :
    opField 0x6A42#16 = 0x6 ∧ opField 0x8120#16 = 0x8 ∧ (nField 0x8120#16).val = 0x0 := by decide

theorem witness_AddImmediateWrapsWithoutFlag : opField 0x7F01#16 = 0x7 := by decide

/-- Sums of 255 and of 256, with x other than F and x = F. -/
theorem witness_AddRegisterSetsCarry :
    opField 0x8014#16 = 0x8 ∧ (nField 0x8014#16).val = 0x4 ∧ (0 : Reg) ≠ vf ∧
    ((regs2 0 0x7F#8 1 0x80#8 State.reset).readV 0).toNat + ((regs2 0 0x7F#8 1 0x80#8 State.reset).readV 1).toNat
      = 255 ∧
    ((regs2 vf 0x80#8 1 0x80#8 State.reset).readV vf).toNat + ((regs2 vf 0x80#8 1 0x80#8 State.reset).readV 1).toNat
      = 256 := by decide

theorem witness_LogicSetsOneRegister :
    opField 0x8121#16 = 0x8 ∧ (nField 0x8121#16).val = 0x1 ∧ (nField 0x8122#16).val = 0x2 ∧
    (nField 0x8123#16).val = 0x3 := by decide

/-- Equal operands, and the first by one the greater. -/
theorem witness_SubtractSetsStrictNotBorrow :
    opField 0x8015#16 = 0x8 ∧ (nField 0x8015#16).val = 0x5 ∧ (0 : Reg) ≠ vf ∧
    ¬ (((regs2 0 5#8 1 5#8 State.reset).readV 0).toNat > ((regs2 0 5#8 1 5#8 State.reset).readV 1).toNat) ∧
    ((regs2 0 6#8 1 5#8 State.reset).readV 0).toNat > ((regs2 0 6#8 1 5#8 State.reset).readV 1).toNat := by decide

theorem witness_ShiftRightSetsFlagFirst :
    opField 0x80F6#16 = 0x8 ∧ (nField 0x80F6#16).val = 0x6 ∧ (14 : Reg) ≠ vf := by decide

theorem witness_ShiftLeftSetsFlagFirst :
    opField 0x80FE#16 = 0x8 ∧ (nField 0x80FE#16).val = 0xE ∧ (14 : Reg) ≠ vf := by decide

theorem witness_RandomIsMaskedDraw : opField 0xC1FF#16 = 0xC := by decide

theorem witness_SysIsNoOperation :
    opField 0x00E1#16 = 0x0 ∧ 0x00E1#16 ≠ 0x00E0#16 ∧ 0x00E1#16 ≠ 0x00EE#16 := by decide

theorem witness_JumpSetsPc : opField 0x1FFF#16 = 0x1 := by decide

/-- sp at 0, at 15 and at 16. -/
theorem witness_CallPushesItsOwnAddress :
    opField 0x2300#16 = 0x2 ∧ State.reset.sp.val < 16 ∧ (State.reset.setSp 15).sp.val < 16 ∧
    (State.reset.setSp 16).sp.val = 16 := by decide

/-- sp at 1, at 16 and at 0. -/
theorem witness_ReturnGoesPastTheCall :
    (State.reset.setSp 1).sp.val = (0 : Fin 16).val + 1 ∧ (State.reset.setSp 16).sp.val = (15 : Fin 16).val + 1 ∧
    State.reset.sp.val = 0 := by decide

/-- Sixteen calls from an empty stack, and one call into the last entry. -/
theorem witness_NestedCallsUnwind :
    State.reset.sp.val + (List.replicate 15 0x300#12).length + 1 ≤ 16 ∧
    (State.reset.setSp 15).sp.val + ([] : List Addr12).length + 1 ≤ 16 := by decide

/-- The words, and states on both sides of each condition. -/
theorem witness_ComparingSkips :
    opField 0x3310#16 = 0x3 ∧ opField 0x4310#16 = 0x4 ∧ opField 0x5120#16 = 0x5 ∧ (nField 0x5120#16).val = 0x0 ∧
    opField 0x9120#16 = 0x9 ∧ (nField 0x9120#16).val = 0x0 ∧
    State.reset.readV 1 = State.reset.readV 2 ∧ (State.reset.writeV 1 1#8).readV 1 ≠ State.reset.readV 2 := by decide

theorem witness_IndexLoads :
    opField 0xA123#16 = 0xA ∧ opField 0xF229#16 = 0xF ∧ (kkField 0xF229#16).toNat = 0x29 := by decide

/-- Sums of 0xFFFF and of 0x10000 (M2, M3). -/
theorem witness_AddToIndexOrOverflow :
    opField 0xF01E#16 = 0xF ∧ (kkField 0xF01E#16).toNat = 0x1E ∧
    ((State.reset.setI 0xFFFE#16).writeV 0 1#8).iReg.toNat +
      (((State.reset.setI 0xFFFE#16).writeV 0 1#8).readV 0).toNat ≤ 0xFFFF ∧
    0xFFFF < ((State.reset.setI 0xFFFF#16).writeV 0 1#8).iReg.toNat +
      (((State.reset.setI 0xFFFF#16).writeV 0 1#8).readV 0).toNat := by decide

/-- I = 0xFFD and I = 0xFFE (M11, M12). -/
theorem witness_DecimalStore :
    opField 0xF033#16 = 0xF ∧ (kkField 0xF033#16).toNat = 0x33 ∧
    (State.reset.setI 0xFFD#16).iReg.toNat + 2 ≤ 0xFFF ∧ 0xFFF < (State.reset.setI 0xFFE#16).iReg.toNat + 2 := by
  decide

/-- I = 0xFF0 and I = 0xFF1 with x = F (M16, M17), and I = 0xFFF and 0x1000 with x = 0. -/
theorem witness_BlockStore :
    opField 0xFF55#16 = 0xF ∧ (kkField 0xFF55#16).toNat = 0x55 ∧
    (State.reset.setI 0xFF0#16).iReg.toNat + (15 : Reg).val ≤ 0xFFF ∧
    0xFFF < (State.reset.setI 0xFF1#16).iReg.toNat + (15 : Reg).val ∧
    (State.reset.setI 0xFFF#16).iReg.toNat + (0 : Reg).val ≤ 0xFFF ∧
    0xFFF < (State.reset.setI 0x1000#16).iReg.toNat + (0 : Reg).val := by decide

/-- I = 0xFF0 and I = 0xFF1 with x = F, and I = 0xFFF and 0x1000 with x = 0 (M19, M20). -/
theorem witness_BlockLoad :
    opField 0xFF65#16 = 0xF ∧ (kkField 0xFF65#16).toNat = 0x65 ∧
    (State.reset.setI 0xFF0#16).iReg.toNat + (15 : Reg).val ≤ 0xFFF ∧
    0xFFF < (State.reset.setI 0xFF1#16).iReg.toNat + (15 : Reg).val ∧
    (State.reset.setI 0xFFF#16).iReg.toNat + (0 : Reg).val ≤ 0xFFF ∧
    0xFFF < (State.reset.setI 0x1000#16).iReg.toNat + (0 : Reg).val := by decide

/-- Registers stored at 0x400, cleared, and I set back: a state from which the load follows. -/
theorem witness_BlockLoadUndoesBlockStore : ∃ t u, exec (.storeRegs 1) ((regs2 0 7#8 1 9#8 State.reset).setI 0x400#16) =
    .next t ∧ 0x400 + (1 : Reg).val ≤ 0xFFF ∧ u = (t.setRegFile State.reset.v).setI 0x400#16 ∧ SameMemory t u :=
  ⟨_, _, rfl, by decide, rfl, fun _ => rfl⟩

/-- V0 and V1 stored at 0x401, and pc there: an odd address. -/
theorem witness_StoredRegistersAreFetched : ∃ t u, exec (.storeRegs 1) ((regs2 0 7#8 1 9#8 State.reset).setI 0x401#16) =
    .next t ∧ 0x401 + (1 : Reg).val ≤ 0xFFF ∧ (1 : Reg).val = (0 : Reg).val + 1 ∧ SameMemory t u ∧
    u.pc.toNat = 0x401 + (0 : Reg).val :=
  ⟨_, State.setPc _ 0x401#16, rfl, by decide, by decide, fun _ => rfl, rfl⟩

theorem witness_CanonicalMemoryIsUnique :
    Memory.wf (Memory.write (Memory.write [] 0xFFF 1#8) 0 7#8) = true ∧
    Memory.wf (Memory.write (Memory.write [] 0 7#8) 0xFFF 1#8) = true ∧
    Memory.write (Memory.write [] 0xFFF 1#8) 0 7#8 = Memory.write (Memory.write [] 0 7#8) 0xFFF 1#8 := by decide

/-- A lit pixel at the top left, and a sprite whose first row is one pixel there: it is covered and it goes out. -/
def oneLitPixel : State := (bytesAt 0x300 [0x80#8] (State.reset.setI 0x300#16)).setFb (State.reset.fb.set 0 0x80#8)

/-- The covered lit pixel; an uncovered framebuffer; n = 0 with I beyond memory (D14) and the last legal byte (D13). -/
theorem witness_DrawInvertsTheSpritePixels :
    SpriteCovers oneLitPixel 0 1 1 0 0 ∧ pixel oneLitPixel.fb 0 0 = true ∧
    (¬ ∃ (c : Fin 64) (r : Fin 32), SpriteCovers State.reset 0 1 0 c r ∧ pixel State.reset.fb c r = true) ∧
    ((0 : Fin 16).val = 0 ∨ (State.reset.setI 0x5000#16).iReg.toNat + (0 : Fin 16).val - 1 ≤ 0xFFF) ∧
    ((1 : Fin 16).val = 0 ∨ (State.reset.setI 0xFFF#16).iReg.toNat + (1 : Fin 16).val - 1 ≤ 0xFFF) := by
  refine ⟨⟨0, 0, ?_⟩, ?_, ?_, by decide, by decide⟩
  · decide +kernel
  · decide +kernel
  · rintro ⟨c, r, ⟨k, j, hk, -⟩, -⟩
    exact absurd hk (Nat.not_lt_zero k)

/-- A byte drawn as `hi`, one as `lo`, one left alone; the fault one row past the end (D12). -/
theorem witness_DrawBlitsTheSpriteRows :
    opField 0xD125#16 = 0xD ∧ 0 < (1 : Fin 16).val ∧ (7 : Fin 256) = blitHi 60 0 0 ∧ (0 : Fin 256) = blitLo 60 0 0 ∧
    (∀ k, k < 1 → (1 : Fin 256) ≠ blitHi 60 0 k ∧ (1 : Fin 256) ≠ blitLo 60 0 k) ∧
    (State.reset.setI 0xFF1#16).iReg.toNat + (15 : Fin 16).val - 1 ≤ 0xFFF ∧
    0xFFF < (State.reset.setI 0xFFF#16).iReg.toNat + (2 : Fin 16).val - 1 := by
  refine ⟨by decide, by decide, by decide, by decide, ?_, by decide, by decide⟩
  intro k hk
  obtain rfl : k = 0 := by omega
  decide

theorem witness_DrawingTwiceErases : ∃ t, exec (.drw 0 1 1) oneLitPixel = .next t ∧ t.iReg = oneLitPixel.iReg ∧
    t.readV 0 = oneLitPixel.readV 0 ∧ t.readV 1 = oneLitPixel.readV 1 ∧ SameMemory oneLitPixel t :=
  ⟨_, rfl, rfl, by decide +kernel, by decide +kernel, fun _ => rfl⟩

theorem witness_DelayCounterTransfers :
    opField 0xF307#16 = 0xF ∧ (kkField 0xF307#16).toNat = 0x07 ∧ (kkField 0xF315#16).toNat = 0x15 := by decide

/-- V5 = 0, 0xF and 0x10. -/
theorem witness_KeySkips :
    opField 0xE59E#16 = 0xE ∧ (kkField 0xE59E#16).toNat = 0x9E ∧ (kkField 0xE5A1#16).toNat = 0xA1 ∧
    (State.reset.readV 5).toNat = (0 : Key).val ∧ ((State.reset.writeV 5 0xF#8).readV 5).toNat = (15 : Key).val ∧
    0xF < ((State.reset.writeV 5 0x10#8).readV 5).toNat := by decide

theorem witness_KeyWaitBegins : opField 0xF20A#16 = 0xF ∧ (kkField 0xF20A#16).toNat = 0x0A := by decide

/-- T11: a release, then the press, then another press behind it. -/
def waitingWithEvents : State :=
  (State.reset.setStatus (.waitKey 2)).setKq [⟨4, .released⟩, ⟨9, .pressed⟩, ⟨1, .pressed⟩]

/-- A release at the head with no press behind it, and a queue with a press. -/
theorem witness_KeyWaitEndsAtTheFirstPress :
    (waitingWithEvents.setKq [⟨15, .released⟩]).status = .waitKey 2 ∧
    (waitingWithEvents.setKq [⟨15, .released⟩]).shut = false ∧
    nextTurn (waitingWithEvents.setKq [⟨15, .released⟩]) = .engine ∧
    (waitingWithEvents.setKq [⟨15, .released⟩]).kq = ⟨15, .released⟩ :: [] ∧
    waitingWithEvents.status = .waitKey 2 ∧ waitingWithEvents.shut = false ∧
    (∀ e ∈ [(⟨4, .released⟩ : KeyEvent)], e.action = .released) ∧
    waitingWithEvents.kq = [⟨4, .released⟩] ++ ⟨9, .pressed⟩ :: [⟨1, .pressed⟩] := by decide

theorem witness_EmptyKeyWaitIsHeld :
    (State.reset.setStatus (.waitKey 15)).status = .waitKey 15 ∧ (State.reset.setStatus (.waitKey 15)).shut = false ∧
    (State.reset.setStatus (.waitKey 15)).kq = [] ∧ nextTurn (State.reset.setStatus (.waitKey 15)) = .engine := by
  decide

/-- The word at 0x200 after reset, and a word at the last fetchable address. -/
theorem witness_StepRunsTheDecodedOperation :
    Executes State.reset (.sys 0x000#12) ∧
    Executes (bytesAt 0xFFE [0xA1#8, 0x23#8] (State.reset.setPc 0xFFE#16)) (.ldI 0x123#12) := by
  unfold Executes; decide

/-- A queue in which one key has two events, and one key none. -/
theorem witness_DrainAppliesTheLastEvent :
    ((State.reset.setKq [⟨4, .pressed⟩, ⟨4, .released⟩]).kq.filter fun e => e.key = 4).getLast? =
      some ⟨4, .released⟩ ∧
    ((State.reset.setKq [⟨4, .pressed⟩, ⟨4, .released⟩]).kq.filter fun e => e.key = 5).getLast? = none := by decide

/-- pc = 0xFFF, and an illegal word at pc = 0xFFE. -/
theorem witness_FetchAndDecodeFaults :
    nextTurn (State.reset.setPc 0xFFF#16) = .engine ∧ (State.reset.setPc 0xFFF#16).status = .running ∧
    (State.reset.setPc 0xFFF#16).shut = false ∧ 0xFFE < (State.reset.setPc 0xFFF#16).pc.toNat ∧
    (bytesAt 0xFFE [0xB1#8, 0x23#8] (State.reset.setPc 0xFFE#16)).pc.toNat ≤ 0xFFE ∧
    wordOfBytes ((bytesAt 0xFFE [0xB1#8, 0x23#8] (State.reset.setPc 0xFFE#16)).mem.read 0xFFE)
      ((bytesAt 0xFFE [0xB1#8, 0x23#8] (State.reset.setPc 0xFFE#16)).mem.read 0xFFF) = 0xB123#16 ∧
    IllegalWord 0xB123#16 := by
  unfold IllegalWord; decide

/-- Each fault of R301 that an operation raises, and none at the other end of the range. -/
theorem witness_EveryOperationCompletesOrFaultsAsListed :
    faultOf (.call 0) (State.reset.setSp 16) = some (.stackOverflow, 0x200) ∧
    faultOf .ret State.reset = some (.stackUnderflow, 0x200) ∧
    faultOf (.addI 0) ((State.reset.setI 0xFFFF#16).writeV 0 1#8) = some (.indexOverflow, 0x10000) ∧
    faultOf (.ldB 0) (State.reset.setI 0xFFE#16) = some (.addressOutOfRange, 0x1000) ∧
    faultOf (.storeRegs 15) (State.reset.setI 0x2000#16) = some (.addressOutOfRange, 0x2000) ∧
    faultOf (.drw 0 0 2) (State.reset.setI 0xFFF#16) = some (.addressOutOfRange, 0x1000) ∧
    faultOf (.skp 5) (State.reset.writeV 5 0x10#8) = some (.keyIndexOutOfRange, 0x10) ∧
    faultOf (.drw 0 0 1) (State.reset.setI 0xFFF#16) = none := by decide

theorem witness_ShutdownHaltsTheEngine :
    nextTurn (State.reset.setShut true) = .engine ∧ (State.reset.setShut true).status.live = true ∧
    (State.reset.setShut true).shut = true ∧
    (((State.reset.setShut true).setStatus (.waitKey 2)).status).live = true := by decide

theorem witness_OtherAgentsWriteOnlyTheirOwn :
    State.reset.status.live = true ∧ nextTurn (State.reset.setSched [.timer]) = .timer ∧
    nextTurn (State.reset.setSched [.input ⟨15, .released⟩]) = .input ⟨15, .released⟩ ∧
    nextTurn (State.reset.setSched [.renderer]) = .renderer ∧
    nextTurn (State.reset.setSched [.shutdown]) = .shutdown := by decide

theorem witness_OnlyTerminalStatusStops :
    (State.reset.setStatus .halted).status = .halted ∧
    (State.reset.setStatus (.faulted .stackOverflow 0x200)).status = .faulted .stackOverflow 0x200 ∧
    (State.reset.setStatus (.waitKey 0)).status.live = true := by decide

theorem witness_TicksCountDown : (State.reset.setDt 5#8).status.live = true := by decide

/-- The engine and the timer in turn. -/
def inTurn : Schedule := fun n => if n % 2 = 0 then .engine else .timer

/-- A machine that waits for a key, with DT counting. -/
def waiting : State := (State.reset.setStatus (.waitKey 3)).setDt 5#8

/-- Such a machine goes on waiting, whoever's turn it is of the two. -/
theorem stepTurn_waiting (n : Nat) (s : State) (h : s.status = .waitKey 3 ∧ s.shut = false ∧ s.kq = []) :
    ∃ t, stepTurn (inTurn n) s = .next t ∧ t.status = .waitKey 3 ∧ t.shut = false ∧ t.kq = [] := by
  obtain ⟨h1, h2, h3⟩ := h
  have e : stepTurn (inTurn n) s = takeTurn (inTurn n) s :=
    step_of_live (s := s.setSched (inTurn n :: s.sched)) (by show s.status.live = true; rw [h1]; rfl)
  rw [e]
  unfold inTurn
  split
  · refine ⟨s, ?_, h1, h2, h3⟩
    simp only [takeTurn, engineStep, h1, waitStep, h2, h3]
    rfl
  · exact ⟨tick s, rfl, h1, h2, h3⟩

theorem runSchedule_waiting (n : Nat) :
    ∃ t, runSchedule inTurn n waiting = some t ∧ t.status = .waitKey 3 ∧ t.shut = false ∧ t.kq = [] := by
  induction n with
  | zero => exact ⟨waiting, rfl, by decide⟩
  | succ n ih =>
    obtain ⟨t, h, ht⟩ := ih
    obtain ⟨u, hu, hu'⟩ := stepTurn_waiting n t ht
    exact ⟨u, by simp only [runSchedule, h, hu], hu'⟩

/-- The schedule in turn is fair, the waiting machine runs on under it for ever, and it never executes LD DT,Vx. -/
theorem witness_FairTimerReachesZero :
    inTurn.fair ∧ (∀ n, ∃ t, runSchedule inTurn n waiting = some t) ∧
    ∀ n t, runSchedule inTurn n waiting = some t → inTurn n = .engine → ¬ ∃ x, Executes { t with sched := [] } (.ldDtV x) := by
  refine ⟨fun n => ⟨2 * n + 1, by omega, ?_⟩, fun n => ?_, ?_⟩
  · show (if (2 * n + 1) % 2 = 0 then Turn.engine else Turn.timer) = Turn.timer
    rw [if_neg (by omega)]
  · obtain ⟨t, h, -⟩ := runSchedule_waiting n
    exact ⟨t, h⟩
  · rintro n t h - ⟨x, -, hr, -⟩
    obtain ⟨u, hu, hw, -⟩ := runSchedule_waiting n
    rw [h] at hu
    obtain rfl := Option.some.inj hu
    have : t.status = .running := hr
    rw [hw] at this
    cases this

theorem witness_EveryInterleavingIsARun : (runSchedule inTurn 3 State.reset).isSome = true := by decide +kernel

/-- A tick, and LD DT,V3. -/
theorem witness_DelayCounterWriters :
    (after (step ((State.reset.setSched [.timer]).setDt 5#8))).map (fun t => decide (t.dt ≠ 5#8)) = some true ∧
    (stepWord 0xF315#16 (State.reset.writeV 3 0x3C#8)).map (fun t => decide (t.dt ≠ 0#8)) = some true := by decide

/-- A draw that lights a pixel, and a CLS that puts one out. -/
theorem witness_FramebufferWriters :
    (stepWord 0xD011#16 (bytesAt 0x300 [0x80#8] (State.reset.setI 0x300#16))).map
      (fun t => decide (t.fb ≠ State.reset.fb)) = some true ∧
    (stepWord 0x00E0#16 oneLitPixel).map (fun t => decide (t.fb ≠ oneLitPixel.fb)) = some true := by decide +kernel

/-- The last byte of an LD B and of an LD [I] at the top of memory. -/
theorem witness_MemoryWriters :
    (stepWord 0xF033#16 ((State.reset.setI 0xFFD#16).writeV 0 0x7B#8)).map
      (fun t => decide (t.mem.read 0xFFF ≠ State.reset.mem.read 0xFFF)) = some true ∧
    (stepWord 0xFF55#16 ((State.reset.setI 0xFF0#16).writeV vf 0xEE#8)).map
      (fun t => decide (t.mem.read 0xFFF ≠ State.reset.mem.read 0xFFF)) = some true := by decide

/-- A register load, and the wait step that ends at a press. -/
theorem witness_RegisterWriters :
    (stepWord 0x6A42#16 State.reset).map (fun t => decide (t.readV 0xA ≠ State.reset.readV 0xA)) = some true ∧
    (after (step (waitingWithEvents.setKq [⟨9, .pressed⟩]))).map
      (fun t => decide (t.readV 2 ≠ waitingWithEvents.readV 2)) = some true := by decide

/-- A CALL, and a RET. -/
theorem witness_StackWriters :
    (stepWord 0x2300#16 State.reset).map (fun t => decide (t.stack ≠ State.reset.stack ∨ t.sp ≠ 0)) = some true ∧
    (stepWord 0x00EE#16 (State.reset.setSp 1)).map (fun t => decide (t.stack ≠ State.reset.stack ∨ t.sp ≠ 1)) =
      some true := by decide

theorem witness_IndexWriters :
    (stepWord 0xA123#16 State.reset).map (fun t => decide (t.iReg ≠ 0#16)) = some true ∧
    (stepWord 0xF065#16 State.reset).map (fun t => decide (t.iReg ≠ 0#16)) = some true := by decide

/-- The drain of a cycle. -/
theorem witness_KeyWriters :
    (after (step (State.reset.setKq [⟨7, .pressed⟩]))).map (fun t => decide (t.keys ≠ State.reset.keys)) =
      some true := by decide

theorem witness_ShutdownIsNeverCleared :
    (after (step (State.reset.setShut true))).isSome = true ∧ (State.reset.setShut true).shut = true := by decide

theorem witness_SoundCounterOnlyFalls :
    (after (step ((State.reset.setSched [.timer]).setSt 5#8))).map (fun t => decide (t.st ≠ 5#8)) = some true := by
  decide

/-- A next state, and a stop. -/
theorem witness_SoundCounterIsNotObserved :
    (after (step State.reset)).isSome = true ∧ step (State.reset.setStatus .halted) = .fault .halted :=
  ⟨by decide, rfl⟩

/-- The longest image that fits, with a byte at its end, and one byte more. -/
theorem witness_ConstructionValues :
    3584 < (List.replicate 3585 0#8).length ∧ (List.replicate 3583 0#8 ++ [7#8]).length ≤ 3584 ∧
    (List.replicate 3583 0#8 ++ [7#8])[3583]? = some 7#8 := by
  refine ⟨?_, ?_, ?_⟩
  · rw [List.length_replicate]; decide
  · rw [List.length_append, List.length_replicate]; decide
  · rw [List.getElem?_append_right (by rw [List.length_replicate]), List.length_replicate]; rfl

theorem witness_InvariantAtConstruction : (construct defaultFont [0xA1#8, 0x23#8]).isSome = true := by decide

theorem witness_StepKeepsTheInvariant : Inv State.reset ∧ (after (step State.reset)).isSome = true :=
  ⟨⟨by decide, ⟨by decide, fun x h => by cases h⟩, fun j h => absurd h (by decide +revert)⟩, by decide⟩

end Sys2Proof.Tests
end

section
/-! SUPPORT. What an operation and a step can do, said once (`ExecEffect`, `StepEffect`), and from it the statements of
spec/10_state.md: who writes what, what stops a step, that ST is observed by nothing, and construction. -/

namespace Sys2Proof.Machine

/-! ### What one operation can do -/

/-- The next states that operation `i` can answer from `s`: a fault, which changes the status alone, or the operation's
writes and the move of pc. What goes into memory, the stack, sp and DT is given in full; of V, I and the framebuffer,
which of them is written. -/
inductive ExecEffect (s : State) : Instr → State → Prop
  | fault {i : Instr} (code : FaultCode) (info : Nat) : ExecEffect s i (s.setStatus (.faulted code info))
  | sys (nnn : Addr12) : ExecEffect s (.sys nnn) (advance s)
  | jp (nnn : Addr12) : ExecEffect s (.jp nnn) (jumpTo nnn s)
  | skip {i : Instr} (taken : Bool) : ExecEffect s i (skipIf taken s)
  | call (nnn : Addr12) (h : s.sp.val < 16) :
      ExecEffect s (.call nnn)
        (jumpTo nnn ((s.setStack (s.stack.set s.sp.val s.pc h)).setSp ⟨s.sp.val + 1, by omega⟩))
  | ret (h : s.sp.val ≠ 0) :
      ExecEffect s .ret ((s.setSp ⟨s.sp.val - 1, by omega⟩).setPc (s.stack[s.sp.val - 1] + 2#16))
  | regs {i : Instr} (v : Regs) (h : SameRegsExcept (writtenRegs i) s (s.setRegFile v)) :
      ExecEffect s i (advance (s.setRegFile v))
  | rnd (x : Reg) (kk b : Byte) : ExecEffect s (.rnd x kk) (advance ((s.setDraws (s.draws + 1)).writeV x b))
  | ldI (nnn : Addr12) (a : Word) : ExecEffect s (.ldI nnn) (advance (s.setI a))
  | addI (x : Reg) (a : Word) : ExecEffect s (.addI x) (advance (s.setI a))
  | ldF (x : Reg) (a : Word) : ExecEffect s (.ldF x) (advance (s.setI a))
  | ldB (x : Reg) (h : s.iReg.toNat + 3 ≤ 0x1000) :
      ExecEffect s (.ldB x) (advance (s.setMem (storeBytes s.mem s.iReg.toNat (bcdDigits (s.readV x)))))
  | storeRegs (x : Reg) (h : s.iReg.toNat + blockLength x ≤ 0x1000) :
      ExecEffect s (.storeRegs x) (advance ((s.setMem (storeBytes s.mem s.iReg.toNat (regBlock s.v x))).setI
        (s.iReg + BitVec.ofNat 16 (blockLength x))))
  | loadRegs (x : Reg) (v : Regs) (a : Word) (h : SameRegsExcept (writtenRegs (.loadRegs x)) s (s.setRegFile v)) :
      ExecEffect s (.loadRegs x) (advance ((s.setRegFile v).setI a))
  | cls : ExecEffect s .cls (advance (s.setFb (Vector.replicate 256 0#8)))
  | drw (x y : Reg) (n : Fin 16) (f : Frame) (b : Byte) :
      ExecEffect s (.drw x y n) (advance ((s.setFb f).writeFlag b))
  | waitKey (x : Reg) : ExecEffect s (.waitKey x) (s.setStatus (.waitKey x))
  | ldDtV (x : Reg) : ExecEffect s (.ldDtV x) (advance (s.setDt (s.readV x)))

theorem SameRegsExcept.refl (written : List Reg) (s : State) : SameRegsExcept written s s := fun _ _ => rfl

theorem SameRegsExcept.writeV {written : List Reg} {s t : State} (h : SameRegsExcept written s t) {x : Reg} (b : Byte)
    (hx : x ∈ written) : SameRegsExcept written s (t.writeV x b) := by
  intro r hr
  have hrx : r ≠ x := fun e => hr (by rwa [e])
  rw [readV_writeV_ne t b hrx]
  exact h r hr

/-- A block load from V0 on touches no register above V[x]. -/
theorem sameRegsExcept_writeRegs (s : State) (x : Reg) {bs : List Byte} (hbs : bs.length = blockLength x) :
    SameRegsExcept (writtenRegs (.loadRegs x)) s (s.setRegFile (writeRegs s.v 0 bs)) := by
  intro r hr
  have hlt : x.val < r.val := by simpa [writtenRegs] using hr
  rw [readV_setRegFile, getElem_writeRegs, if_pos (Nat.zero_le _),
    List.getD_eq_default _ _ (by rw [hbs, blockLength]; omega)]
  rfl

theorem ExecEffect.writeV (s : State) {i : Instr} {x : Reg} (b : Byte) (hx : x ∈ writtenRegs i) :
    ExecEffect s i (advance (s.writeV x b)) :=
  .regs _ ((SameRegsExcept.refl _ s).writeV b hx)

theorem ExecEffect.writeV_writeV (s : State) {i : Instr} {x y : Reg} (b c : Byte) (hx : x ∈ writtenRegs i)
    (hy : y ∈ writtenRegs i) : ExecEffect s i (advance ((s.writeV x b).writeV y c)) :=
  .regs _ (((SameRegsExcept.refl _ s).writeV b hx).writeV c hy)

/-- A block operation answers the fault of R55 or, in range, its body. -/
theorem withBlock_effect {s : State} {i : Instr} {len : Nat} {t : State}
    (h : (len = 0 ∨ s.iReg.toNat + len ≤ 0x1000) → ExecEffect s i t) :
    ∃ u, withBlock s len (.next t) = .next u ∧ ExecEffect s i u := by
  rcases withBlock_cases s len (.next t) with ⟨hin, e⟩ | ⟨-, e⟩
  · exact ⟨t, e, h hin⟩
  · exact ⟨_, e, .fault _ _⟩

/-- Every operation completes from every state, in one of the ways `ExecEffect` lists. -/
theorem exec_effect (i : Instr) (s : State) : ∃ t, exec i s = .next t ∧ ExecEffect s i t := by
  cases i with
  | cls => exact ⟨_, rfl, .cls⟩
  | ret =>
    by_cases h : s.sp.val = 0
    · exact ⟨_, by simp only [exec, execRet, pop_eq_none_iff.mpr h]; rfl, .fault _ _⟩
    · exact ⟨_, by simp only [exec, execRet, pop_eq_some h], .ret h⟩
  | jp nnn => exact ⟨_, rfl, .jp nnn⟩
  | call nnn =>
    by_cases h : s.sp.val < 16
    · exact ⟨_, by simp only [exec, execCall, push_eq_some h], .call nnn h⟩
    · have h16 : s.sp.val = 16 := by omega
      exact ⟨_, by simp only [exec, execCall, push_eq_none_iff.mpr h16]; rfl, .fault _ _⟩
  | seImm x kk => exact ⟨_, rfl, .skip _⟩
  | sneImm x kk => exact ⟨_, rfl, .skip _⟩
  | seReg x y => exact ⟨_, rfl, .skip _⟩
  | sneReg x y => exact ⟨_, rfl, .skip _⟩
  | ldImm x kk => exact ⟨_, rfl, .writeV s _ (.head _)⟩
  | ldReg x y => exact ⟨_, rfl, .writeV s _ (.head _)⟩
  | addImm x kk => exact ⟨_, rfl, .writeV s _ (.head _)⟩
  | addReg x y => exact ⟨_, rfl, .writeV_writeV s _ _ (.head _) (.tail _ (.head _))⟩
  | or x y => exact ⟨_, rfl, .writeV s _ (.head _)⟩
  | and x y => exact ⟨_, rfl, .writeV s _ (.head _)⟩
  | xor x y => exact ⟨_, rfl, .writeV s _ (.head _)⟩
  | sub x y => exact ⟨_, rfl, .writeV_writeV s _ _ (.head _) (.tail _ (.head _))⟩
  | shr x => exact ⟨_, rfl, .writeV_writeV s _ _ (.tail _ (.head _)) (.head _)⟩
  | shl x => exact ⟨_, rfl, .writeV_writeV s _ _ (.tail _ (.head _)) (.head _)⟩
  | ldI nnn => exact ⟨_, rfl, .ldI nnn _⟩
  | addI x =>
    by_cases h : s.iReg.toNat + (s.readV x).toNat > 0xFFFF
    · exact ⟨_, if_pos h, .fault _ _⟩
    · exact ⟨_, if_neg h, .addI x _⟩
  | ldF x => exact ⟨_, rfl, .ldF x _⟩
  | ldB x => exact withBlock_effect fun h => .ldB x (h.resolve_left (by decide))
  | storeRegs x => exact withBlock_effect fun h => .storeRegs x (h.resolve_left (Nat.succ_ne_zero _))
  | loadRegs x =>
    exact withBlock_effect fun _ => .loadRegs x _ _ (sameRegsExcept_writeRegs s x (length_readBytes _ _ _))
  | rnd x kk => exact ⟨_, rfl, .rnd x kk _⟩
  | drw x y n => exact withBlock_effect fun _ => .drw x y n _ _
  | skp x =>
    cases h : s.keyAt (s.readV x) with
    | none => exact ⟨_, by simp only [exec, execSkp, h]; rfl, .fault _ _⟩
    | some down => exact ⟨_, by simp only [exec, execSkp, h], .skip down⟩
  | sknp x =>
    cases h : s.keyAt (s.readV x) with
    | none => exact ⟨_, by simp only [exec, execSknp, h]; rfl, .fault _ _⟩
    | some down => exact ⟨_, by simp only [exec, execSknp, h], .skip (!down)⟩
  | waitKey x => exact ⟨_, rfl, .waitKey x⟩
  | ldVDt x => exact ⟨_, rfl, .writeV s _ (.head _)⟩
  | ldDtV x => exact ⟨_, rfl, .ldDtV x⟩
  | sys nnn => exact ⟨_, rfl, .sys nnn⟩

section
variable {s t : State} {i : Instr} (h : ExecEffect s i t)
include h

theorem ExecEffect.st_eq : t.st = s.st := by cases h <;> rfl
theorem ExecEffect.kq_eq : t.kq = s.kq := by cases h <;> rfl
theorem ExecEffect.shut_eq : t.shut = s.shut := by cases h <;> rfl

/-- Only LD DT,Vx writes DT (R27, R271). -/
theorem ExecEffect.dt_writer (hne : t.dt ≠ s.dt) : ∃ x, i = .ldDtV x ∧ t.dt = s.readV x := by
  cases h with
  | ldDtV x => exact ⟨x, rfl, rfl⟩
  | _ => exact absurd rfl hne

/-- Only CLS and DRW write the framebuffer (R31). -/
theorem ExecEffect.fb_writer (hne : t.fb ≠ s.fb) : i = .cls ∨ ∃ x y n, i = .drw x y n := by
  cases h with
  | cls => exact .inl rfl
  | drw x y n => exact .inr ⟨x, y, n, rfl⟩
  | _ => exact absurd rfl hne

/-- Only R23's five operations write I. -/
theorem ExecEffect.iReg_writer (hne : t.iReg ≠ s.iReg) :
    (∃ a, i = .ldI a) ∨ ∃ x, i = .addI x ∨ i = .ldF x ∨ i = .storeRegs x ∨ i = .loadRegs x := by
  cases h with
  | ldI nnn => exact .inl ⟨nnn, rfl⟩
  | addI x => exact .inr ⟨x, .inl rfl⟩
  | ldF x => exact .inr ⟨x, .inr (.inl rfl)⟩
  | storeRegs x => exact .inr ⟨x, .inr (.inr (.inl rfl))⟩
  | loadRegs x => exact .inr ⟨x, .inr (.inr (.inr rfl))⟩
  | _ => exact absurd rfl hne

/-- Only CALL and RET write S and sp, and move sp by one (R25, R26). -/
theorem ExecEffect.stack_writer (hne : t.stack ≠ s.stack ∨ t.sp ≠ s.sp) :
    (∃ a, i = .call a ∧ t.sp.val = s.sp.val + 1) ∨ (i = .ret ∧ t.sp.val + 1 = s.sp.val) := by
  cases h with
  | call nnn => exact .inl ⟨nnn, rfl, rfl⟩
  | ret h0 => exact .inr ⟨rfl, Nat.succ_pred h0⟩
  | _ => exact hne.elim (absurd rfl) (absurd rfl)

/-- No register outside R22's column "writes" changes. -/
theorem ExecEffect.sameRegsExcept : SameRegsExcept (writtenRegs i) s t := by
  cases h with
  | regs v hv => exact hv
  | loadRegs x v a hv => exact hv
  | rnd x kk b => exact SameRegsExcept.writeV (t := s.setDraws _) (fun _ _ => rfl) b (.head _)
  | drw x y n f b => exact SameRegsExcept.writeV (t := s.setFb f) (fun _ _ => rfl) b (.head _)
  | _ => exact fun _ _ => rfl

end

/-! ### What one step can do -/

/-- The next states that one step can answer from `s` (R316, R120, R276): another agent's turn, the engine's halt, one
of the three wait steps, a fault of fetch or decode, or one executed operation. -/
inductive StepEffect (s : State) : State → Prop
  | timer (turn : nextTurn s = .timer) : StepEffect s (tick (s.setSched s.sched.tail))
  | input (e : KeyEvent) (turn : nextTurn s = .input e) : StepEffect s (appendEvent e (s.setSched s.sched.tail))
  | renderer (turn : nextTurn s = .renderer) : StepEffect s (s.setSched s.sched.tail)
  | shutdown (turn : nextTurn s = .shutdown) : StepEffect s (signalShutdown (s.setSched s.sched.tail))
  | halt (turn : nextTurn s = .engine) (shut : s.shut = true) :
      StepEffect s ((s.setSched s.sched.tail).setStatus .halted)
  | held (x : Reg) (turn : nextTurn s = .engine) (status : s.status = .waitKey x) :
      StepEffect s (s.setSched s.sched.tail)
  | release (x : Reg) (k : Key) (rest : List KeyEvent) (turn : nextTurn s = .engine) (status : s.status = .waitKey x)
      (queue : s.kq = ⟨k, .released⟩ :: rest) :
      StepEffect s (((s.setSched s.sched.tail).setKeys (s.keys.set k.val false)).setKq rest)
  | press (x : Reg) (k : Key) (rest : List KeyEvent) (turn : nextTurn s = .engine) (status : s.status = .waitKey x)
      (queue : s.kq = ⟨k, .pressed⟩ :: rest) :
      StepEffect s (((((s.setSched s.sched.tail).setKeys (s.keys.set k.val true)).setKq rest).writeV x
        (BitVec.ofNat 8 k.val)).setPc (s.pc + 2#16) |>.setStatus .running)
  | fault (code : FaultCode) (info : Nat) (turn : nextTurn s = .engine) (status : s.status = .running) :
      StepEffect s ((drain (s.setSched s.sched.tail)).setStatus (.faulted code info))
  | exec (i : Instr) (t : State) (executes : Executes s i) (effect : ExecEffect (drain (s.setSched s.sched.tail)) i t) :
      StepEffect s t

/-- A decoded fetch in an engine's cycle is what `Executes` says. -/
theorem executes_of_fetch {s : State} {w : Word} {i : Instr} (turn : nextTurn s = .engine)
    (status : s.status = .running) (shut : s.shut = false) (hf : fetch s = some w) (hd : decode w = .op i) :
    Executes s i := by
  have hpc : s.pc.toNat ≤ 0xFFE := by
    by_contra hgt
    rw [fetch_eq_none_iff.mpr (by omega)] at hf
    cases hf
  rw [fetch_eq_some hpc] at hf
  cases hf
  exact ⟨turn, status, shut, hpc, hd⟩

theorem cycle_effect {s : State} (turn : nextTurn s = .engine) (status : s.status = .running) :
    ∃ t, cycle (s.setSched s.sched.tail) = .next t ∧ StepEffect s t := by
  rcases cycle_cases (s.setSched s.sched.tail) with
    ⟨hs, e⟩ | ⟨-, -, e⟩ | ⟨w, u, -, -, -, e⟩ | ⟨w, i, hs, hf, hd, e⟩
  · exact ⟨_, e, .halt turn hs⟩
  · exact ⟨_, e, .fault _ _ turn status⟩
  · exact ⟨_, e, .fault _ _ turn status⟩
  · obtain ⟨t, ht, effect⟩ := exec_effect i (drain (s.setSched s.sched.tail))
    exact ⟨t, e.trans ht, .exec i t (executes_of_fetch turn status hs hf hd) effect⟩

theorem waitStep_effect {x : Reg} {s : State} (turn : nextTurn s = .engine) (status : s.status = .waitKey x) :
    StepEffect s (waitStep x (s.setSched s.sched.tail)) := by
  rcases waitStep_cases x (s.setSched s.sched.tail) with
    ⟨shut, e⟩ | ⟨-, -, e⟩ | ⟨k, rest, -, queue, e⟩ | ⟨k, rest, -, queue, e⟩ <;> rw [e]
  · exact .halt turn shut
  · exact .held x turn status
  · exact .release x k rest turn status queue
  · exact .press x k rest turn status queue

theorem engineStep_effect {s : State} (live : s.status.live = true) (turn : nextTurn s = .engine) :
    ∃ t, engineStep (s.setSched s.sched.tail) = .next t ∧ StepEffect s t := by
  cases status : s.status with
  | running =>
    have e : engineStep (s.setSched s.sched.tail) = cycle (s.setSched s.sched.tail) := by simp [engineStep, status]
    exact e ▸ cycle_effect turn status
  | waitKey x => exact ⟨_, by simp [engineStep, status], waitStep_effect turn status⟩
  | halted => rw [status] at live; cases live
  | faulted code info => rw [status] at live; cases live

/-- In a live status there is a next state, reached in one of the ways `StepEffect` lists. -/
theorem step_effect_of_live {s : State} (live : s.status.live = true) : ∃ t, step s = .next t ∧ StepEffect s t := by
  rw [step_of_live live]
  cases turn : nextTurn s with
  | engine => exact engineStep_effect live turn
  | timer => exact ⟨_, rfl, .timer turn⟩
  | input e => exact ⟨_, rfl, .input e turn⟩
  | renderer => exact ⟨_, rfl, .renderer turn⟩
  | shutdown => exact ⟨_, rfl, .shutdown turn⟩

theorem effect_of_step {s t : State} (h : step s = .next t) : StepEffect s t := by
  obtain ⟨u, hu, e⟩ := step_effect_of_live (step_next h).1
  rw [h] at hu
  cases hu
  exact e

/-! ### Obligations -/

/-- Settles O44: `exec_effect` gives every operation a next state, and so every turn in a live status. -/
theorem onlyTerminalStatusStops : Obligations.OnlyTerminalStatusStops := by
  refine fun s => ⟨fun h => ?_, fun code info h => ?_, fun live => ?_⟩
  · simp [step, systemStep, h]
  · simp [step, systemStep, h]
  · obtain ⟨t, h, -⟩ := step_effect_of_live live
    exact ⟨t, h⟩

/-- Settles O48, by cases on what the step did: a tick, or the one operation that writes DT. -/
theorem delayCounterWriters : Obligations.DelayCounterWriters := by
  intro s t h hne
  cases effect_of_step h with
  | timer turn =>
    have hdt : (tick (s.setSched s.sched.tail)).dt.toNat = s.dt.toNat - 1 := toNat_countDown s.dt
    have hpos : s.dt.toNat ≠ 0 := fun h0 => hne (BitVec.eq_of_toNat_eq (by omega))
    exact .inl ⟨turn, by omega⟩
  | exec i t executes effect =>
    obtain ⟨x, rfl, hdt⟩ := effect.dt_writer hne
    exact .inr ⟨x, executes, hdt⟩
  | _ => exact absurd rfl hne

/-- Settles O49, by cases on what the step did. -/
theorem framebufferWriters : Obligations.FramebufferWriters := by
  intro s t h hne
  cases effect_of_step h with
  | exec i t executes effect =>
    rcases effect.fb_writer hne with rfl | ⟨x, y, n, rfl⟩
    · exact .inl executes
    · exact .inr ⟨x, y, n, executes⟩
  | _ => exact absurd rfl hne

/-- Settles O51: a register outside `writtenRegs` is kept by every operation, so what is left is the press that ends a
key wait. -/
theorem registerWriters : Obligations.RegisterWriters := by
  intro s t r h hne
  cases effect_of_step h with
  | exec i t executes effect =>
    exact .inl ⟨i, executes, by_contra fun hr => hne (effect.sameRegsExcept r hr)⟩
  | press x k rest turn status queue =>
    have hrx : r = x := by_contra fun hrx => hne (readV_writeV_ne _ _ hrx)
    exact .inr ⟨turn, hrx ▸ status⟩
  | _ => exact absurd rfl hne

/-- Settles O52, by cases on what the step did. -/
theorem stackWriters : Obligations.StackWriters := by
  intro s t h hne
  cases effect_of_step h with
  | exec i t executes effect =>
    rcases effect.stack_writer hne with ⟨a, rfl, hsp⟩ | ⟨rfl, hsp⟩
    · exact .inl ⟨a, executes, hsp⟩
    · exact .inr ⟨executes, hsp⟩
  | _ => exact hne.elim (absurd rfl) (absurd rfl)

/-- Settles O53, by cases on what the step did. -/
theorem indexWriters : Obligations.IndexWriters := by
  intro s t h hne
  cases effect_of_step h with
  | exec i t executes effect =>
    rcases effect.iReg_writer hne with ⟨a, rfl⟩ | ⟨x, rfl | rfl | rfl | rfl⟩
    · exact .inl ⟨a, executes⟩
    · exact .inr ⟨x, .inl executes⟩
    · exact .inr ⟨x, .inr (.inl executes)⟩
    · exact .inr ⟨x, .inr (.inr (.inl executes))⟩
    · exact .inr ⟨x, .inr (.inr (.inr executes))⟩
  | _ => exact absurd rfl hne

/-- Settles O54: the engine takes the whole queue in a cycle, its head in a wait step, and nothing at a halt or while
held. -/
theorem keyWriters : Obligations.KeyWriters := by
  intro s t h
  cases effect_of_step h with
  | timer turn => exact ⟨absurd rfl, .inr (.inr rfl)⟩
  | input e turn => exact ⟨absurd rfl, .inl ⟨e, turn, rfl⟩⟩
  | renderer turn => exact ⟨absurd rfl, .inr (.inr rfl)⟩
  | shutdown turn => exact ⟨absurd rfl, .inr (.inr rfl)⟩
  | halt turn shut => exact ⟨fun _ => turn, .inr (.inr rfl)⟩
  | held x turn status => exact ⟨fun _ => turn, .inr (.inr rfl)⟩
  | release x k rest turn status queue => exact ⟨fun _ => turn, .inr (.inl ⟨turn, [_], queue⟩)⟩
  | press x k rest turn status queue => exact ⟨fun _ => turn, .inr (.inl ⟨turn, [_], queue⟩)⟩
  | fault code info turn status => exact ⟨fun _ => turn, .inr (.inl ⟨turn, s.kq, (List.append_nil _).symm⟩)⟩
  | exec i t executes effect =>
    obtain ⟨turn, -⟩ := executes
    exact ⟨fun _ => turn, .inr (.inl ⟨turn, s.kq, by simp [effect.kq_eq]⟩)⟩

/-- Settles O55, by cases on what the step did. -/
theorem shutdownIsNeverCleared : Obligations.ShutdownIsNeverCleared := by
  intro s t h shut
  cases effect_of_step h with
  | shutdown turn => rfl
  | exec i t executes effect => exact effect.shut_eq.trans shut
  | _ => exact shut

/-- Settles O56: no operation writes ST, and a tick takes one from it. -/
theorem soundCounterOnlyFalls : Obligations.SoundCounterOnlyFalls := by
  intro s t h
  cases effect_of_step h with
  | timer turn =>
    have hst : (tick (s.setSched s.sched.tail)).st.toNat = s.st.toNat - 1 := toNat_countDown s.st
    exact ⟨by omega, fun _ => turn⟩
  | exec i t executes effect =>
    have hst : t.st = s.st := effect.st_eq
    exact ⟨by rw [hst], absurd hst⟩
  | _ => exact ⟨Nat.le_refl _, absurd rfl⟩

/-! ### The sound counter is not observed -/

/-- The answer with `f` applied to its next state, if it has one. -/
def mapNext (f : State → State) : Outcome → Outcome
  | .next t => .next (f t)
  | .fault r => .fault r
  | .refused r => .refused r

section
variable (s : State) (b : Byte)

theorem keyAt_setSt (k : Byte) : (s.setSt b).keyAt k = s.keyAt k := rfl

theorem push_setSt (w : Word) : push (s.setSt b) w = (push s w).map (·.setSt b) := by
  by_cases h : s.sp.val < 16
  · rw [push_eq_some h, push_eq_some (s := s.setSt b) h]; rfl
  · have h16 : s.sp.val = 16 := by omega
    rw [push_eq_none_iff.mpr h16, push_eq_none_iff (s := s.setSt b) |>.mpr h16]; rfl

theorem pop_setSt : pop (s.setSt b) = (pop s).map fun p => (p.1, p.2.setSt b) := by
  by_cases h : s.sp.val = 0
  · rw [pop_eq_none_iff.mpr h, pop_eq_none_iff (s := s.setSt b) |>.mpr h]; rfl
  · rw [pop_eq_some h, pop_eq_some (s := s.setSt b) h]; rfl

theorem mapNext_withBlock (len : Nat) (body : Outcome) :
    mapNext (·.setSt b) (withBlock s len body) = withBlock (s.setSt b) len (mapNext (·.setSt b) body) := by
  rcases withBlock_cases s len body with ⟨h, e⟩ | ⟨⟨h0, h⟩, e⟩ <;> rw [e]
  · exact (withBlock_in (s := s.setSt b) h).symm
  · exact (withBlock_out (s := s.setSt b) h0 h).symm

/-- No operation reads ST: with another ST it answers the same, up to ST. -/
theorem mapNext_exec (i : Instr) : mapNext (·.setSt b) (exec i s) = exec i (s.setSt b) := by
  cases i with
  | ret =>
    simp only [exec, execRet, pop_setSt]
    cases pop s <;> rfl
  | call nnn =>
    simp only [exec, execCall, State.setSt_pc, push_setSt]
    cases push s s.pc <;> rfl
  | skp x =>
    simp only [exec, execSkp, readV_setSt, keyAt_setSt]
    cases s.keyAt (s.readV x) <;> rfl
  | sknp x =>
    simp only [exec, execSknp, readV_setSt, keyAt_setSt]
    cases s.keyAt (s.readV x) <;> rfl
  | addI x => exact apply_ite (mapNext _) _ _ _
  | ldB x => exact mapNext_withBlock s b _ _
  | storeRegs x => exact mapNext_withBlock s b _ _
  | loadRegs x => exact mapNext_withBlock s b _ _
  | drw x y n => exact mapNext_withBlock s b _ _
  | _ => rfl

theorem mapNext_cycle : mapNext (·.setSt b) (cycle s) = cycle (s.setSt b) := by
  have hf : fetch (drain (s.setSt b)) = fetch (drain s) := rfl
  simp only [cycle, fetchExecute, State.setSt_shut, hf]
  cases s.shut with
  | true => rfl
  | false =>
    cases fetch (drain s) with
    | none => rfl
    | some w =>
      cases h : decode w with
      | unknownOpcode u => simp only [h]; rfl
      | op i => simp only [h]; exact mapNext_exec (drain s) b i

theorem waitStep_setSt (x : Reg) : waitStep x (s.setSt b) = (waitStep x s).setSt b := by
  cases shut : s.shut with
  | true => rw [waitStep_shutdown shut, waitStep_shutdown (s := s.setSt b) shut]; rfl
  | false =>
    cases queue : s.kq with
    | nil => rw [waitStep_held shut queue, waitStep_held (s := s.setSt b) shut queue]
    | cons e rest =>
      obtain ⟨k, _ | _⟩ := e
      · rw [waitStep_press shut queue, waitStep_press (s := s.setSt b) shut queue]; rfl
      · rw [waitStep_release shut queue, waitStep_release (s := s.setSt b) shut queue]; rfl

theorem mapNext_engineStep : mapNext (·.setSt b) (engineStep s) = engineStep (s.setSt b) := by
  simp only [engineStep, State.setSt_status]
  cases s.status with
  | running => exact mapNext_cycle s b
  | waitKey x => exact congrArg Host.Outcome.next (waitStep_setSt s b x).symm
  | halted => rfl
  | faulted code info => rfl

/-- The sound counter after a turn that found it at `b`. -/
def soundAfter (turn : Turn) (b : Byte) : Byte := if turn = .timer then countDown b else b

theorem mapNext_takeTurn (turn : Turn) :
    mapNext (·.setSt (soundAfter turn b)) (takeTurn turn s) = takeTurn turn (s.setSt b) := by
  cases turn with
  | engine => exact mapNext_engineStep s b
  | _ => rfl

theorem mapNext_step : mapNext (·.setSt (soundAfter (nextTurn s) b)) (step s) = step (s.setSt b) := by
  simp only [step, systemStep, State.setSt_status]
  cases s.status with
  | running => exact mapNext_takeTurn _ b _
  | waitKey x => exact mapNext_takeTurn _ b _
  | halted => rfl
  | faulted code info => rfl

end

/-- Settles O57: `step` commutes with the change of ST, a tick counting the other value down as well. -/
theorem soundCounterIsNotObserved : Obligations.SoundCounterIsNotObserved := by
  refine fun s b => ⟨fun t h => ⟨soundAfter (nextTurn s) b, ?_⟩, fun r h => ?_⟩
  · exact (mapNext_step s b).symm.trans (congrArg _ h)
  · exact (mapNext_step s b).symm.trans (congrArg (mapNext _) h)

/-! ### Construction -/

theorem construct_eq_none {font : Vector Byte 80} {image : List Byte} (h : 3584 < image.length) :
    construct font image = none := if_pos h

/-- Memory at construction (R40): the font from 0x000, the image from 0x200. -/
def constructedMemory (font : Vector Byte 80) (image : List Byte) : Memory :=
  storeBytes (storeBytes [] 0 font.toList) 0x200 image

theorem construct_eq_some {font : Vector Byte 80} {image : List Byte} (h : image.length ≤ 3584) :
    construct font image = some (State.reset.setMem (constructedMemory font image)) :=
  if_neg (Nat.not_lt.mpr h)

section
variable (font : Vector Byte 80) (image : List Byte)

theorem constructedMemory_font (a : Fin 80) : (constructedMemory font image).read a.val = font[a.val] := by
  have ha := a.isLt
  rw [constructedMemory, read_storeBytes_outside _ _ _ (.inl (by omega))]
  simpa using read_storeBytes_inside [] 0 font.toList (k := a.val) (by simp)

theorem read_nil_above_font {a : Nat} (h : 0x050 ≤ a) : Memory.read [] a = 0#8 :=
  List.getD_eq_default _ _ h

theorem constructedMemory_outside {a : Nat} (hfont : 0x050 ≤ a) (himage : a < 0x200 ∨ 0x200 + image.length ≤ a) :
    (constructedMemory font image).read a = 0#8 := by
  rw [constructedMemory, read_storeBytes_outside _ _ _ himage,
    read_storeBytes_outside _ _ _ (.inr (by simpa using hfont)), read_nil_above_font hfont]

theorem constructedMemory_image {k : Nat} {b : Byte} (h : image[k]? = some b) :
    (constructedMemory font image).read (0x200 + k) = b := by
  obtain ⟨hk, rfl⟩ := List.getElem?_eq_some_iff.mp h
  exact read_storeBytes_inside _ _ _ hk

theorem constructedMemory_wf (h : image.length ≤ 3584) : (constructedMemory font image).wf = true := by
  have hfont : (storeBytes [] 0 font.toList).wf = true := wf_storeBytes (by simp [Config.memSize]) rfl
  exact wf_storeBytes (by unfold Config.memSize; omega) hfont

end

/-- Settles O58: memory by the laws of the two block stores, everything else the reset state's. -/
theorem constructionValues : Obligations.ConstructionValues := by
  refine fun font image => ⟨construct_eq_none, fun h => ⟨_, construct_eq_some h, ?_⟩⟩
  refine ⟨fun r => Vector.getElem_replicate _, rfl, rfl, rfl, fun j => Vector.getElem_replicate _, rfl, rfl,
    fun k => Vector.getElem_replicate _, rfl, fun j => Vector.getElem_replicate _, constructedMemory_font font image,
    fun a h1 h2 => constructedMemory_outside font image h1 (.inl h2), fun k b => constructedMemory_image font image,
    fun a h1 _ => constructedMemory_outside font image (by omega) (.inr h1), rfl, rfl⟩

/-- The invariant at construction: nothing is in use on the stack, and both block stores lie inside memory. -/
theorem inv_of_construct {font : Vector Byte 80} {image : List Byte} {s : State} (h : construct font image = some s) :
    Inv s := by
  have hlen : image.length ≤ 3584 := by
    by_contra hgt
    rw [construct_eq_none (by omega)] at h
    cases h
  rw [construct_eq_some hlen] at h
  cases h
  have hpc : PcInRange (State.reset.setMem (constructedMemory font image)) :=
    ⟨show Config.pcReset.toNat ≤ 0x1002 by decide, fun x hx => by cases hx⟩
  exact ⟨constructedMemory_wf font image hlen, hpc, fun j hj => absurd hj (Nat.not_lt_zero _)⟩

/-- Bytes that unlisted addresses read as anyway leave nothing to list. -/
theorem storeBytes_nil_of_background {bs : List Byte} {base : Nat}
    (h : ∀ k b, bs[k]? = some b → b = Memory.background (base + k)) : storeBytes [] base bs = [] := by
  induction bs generalizing base with
  | nil => rfl
  | cons b bs ih =>
    have hb : b = Memory.background base := h 0 b rfl
    have hwrite : Memory.write [] base b = [] := if_pos hb
    rw [storeBytes, hwrite]
    refine ih fun k c hc => ?_
    rw [h (k + 1) c hc, Nat.add_assoc, Nat.add_comm 1]

theorem construct_defaultFont_nil : construct defaultFont [] = some State.reset := by
  have hfont : storeBytes [] 0 fontTable = [] := storeBytes_nil_of_background fun k b hb => by
    simp [Memory.background, List.getD, hb]
  have htable : defaultFont.toList = fontTable := by simp [defaultFont, Vector.toList]
  rw [construct_eq_some (by simp), constructedMemory, htable, hfont]
  rfl

/-- Settles O59: the reset state is one of the constructions, so its invariant is a case of theirs. -/
theorem invariantAtConstruction : Obligations.InvariantAtConstruction :=
  ⟨construct_defaultFont_nil, inv_of_construct construct_defaultFont_nil, fun _ _ _ => inv_of_construct⟩

end Sys2Proof.Machine
end

section
/-! SUPPORT. The statements of spec/20_memory.md: the encoder undone by the decoder, the canonical memory determined by
what it reads, who writes memory, and what the fetch reads or refuses. -/

namespace Sys2Proof.Machine

/-! ### The decoder undoes the encoder, format by format (R83, R87) -/

theorem decode_encodeA {op : Nat} {f : Addr12 → Instr} (hf : EncodedA op f) (h : op < 16) (nnn : Addr12) :
    decode (encodeA op nnn) = .op (f nnn) := by
  rw [hf _ (opField_encodeA h nnn), nnnField_encodeA h]

theorem decode_encodeXKK {op : Nat} {f : Reg → Byte → Instr} (hf : EncodedXKK op f) (h : op < 16) (x : Reg)
    (kk : Byte) : decode (encodeXKK op x kk) = .op (f x kk) := by
  rw [hf _ (opField_encodeXKK h x kk), xField_encodeXKK h, kkField_encodeXKK h]

theorem decode_encodeXKK_sub {op : Nat} {kk : Byte} {f : Reg → Instr} (hf : EncodedXS op kk.toNat f) (h : op < 16)
    (x : Reg) : decode (encodeXKK op x kk) = .op (f x) := by
  have hkk : (kkField (encodeXKK op x kk)).toNat = kk.toNat := by rw [kkField_encodeXKK h]
  rw [hf _ (opField_encodeXKK h x kk) hkk, xField_encodeXKK h]

theorem decode_encodeXYN_sub {op : Nat} {n : Fin 16} {f : Reg → Reg → Instr} (hf : EncodedXYS op n.val f) (h : op < 16)
    (x y : Reg) : decode (encodeXYN op x y n) = .op (f x y) := by
  have hn : (nField (encodeXYN op x y n)).val = n.val := by rw [nField_encodeXYN h]
  rw [hf _ (opField_encodeXYN h x y n) hn, xField_encodeXYN h, yField_encodeXYN h]

theorem decode_encode_drw (x y : Reg) (n : Fin 16) : decode (encodeXYN 0xD x y n) = .op (.drw x y n) := by
  have h : 0xD < 16 := by decide
  simp only [decode, opField_encodeXYN h, xField_encodeXYN h, yField_encodeXYN h, nField_encodeXYN h]

/-- The two words of family 0x0 that are not SYS are those of the two addresses that `Instr.wellFormed` excludes. -/
theorem decode_encode_sys {nnn : Addr12} (hcls : nnn ≠ 0x0E0#12) (hret : nnn ≠ 0x0EE#12) :
    decode (encodeA 0x0 nnn) = .op (.sys nnn) := by
  have h : 0x0 < 16 := by decide
  have hfield := nnnField_encodeA h nnn
  have h1 : encodeA 0x0 nnn ≠ 0x00E0#16 := fun e => hcls (by rw [← hfield, e]; rfl)
  have h2 : encodeA 0x0 nnn ≠ 0x00EE#16 := fun e => hret (by rw [← hfield, e]; rfl)
  simp only [decode, opField_encodeA h, decodeFamily0, if_neg h1, if_neg h2, hfield]

/-- The decoder gives every well-formed operation back from its word (R86, R87). -/
theorem decode_encode {i : Instr} (hi : i.wellFormed = true) : decode (encode i) = .op i := by
  cases i with
  | cls | ret => rfl
  | sys nnn =>
    obtain ⟨hcls, hret⟩ : nnn ≠ 0x0E0#12 ∧ nnn ≠ 0x0EE#12 := by simpa [Instr.wellFormed] using hi
    exact decode_encode_sys hcls hret
  | jp nnn | call nnn | ldI nnn => exact decode_encodeA (fun w h => by simp only [decode, h]) (by decide) nnn
  | seImm x kk | sneImm x kk | ldImm x kk | addImm x kk | rnd x kk =>
    exact decode_encodeXKK (fun w h => by simp only [decode, h]) (by decide) x kk
  | seReg x y | sneReg x y =>
    exact decode_encodeXYN_sub (fun w h hn => by simp [decode, h, hn]) (by decide) x y
  | ldReg x y | addReg x y | or x y | and x y | xor x y | sub x y =>
    exact decode_encodeXYN_sub (fun w h hn => by simp [decode, h, decodeFamily8, hn]) (by decide) x y
  | shr x =>
    exact decode_encodeXYN_sub (f := fun x _ => .shr x) (fun w h hn => by simp [decode, h, decodeFamily8, hn])
      (by decide) x 0
  | shl x =>
    exact decode_encodeXYN_sub (f := fun x _ => .shl x) (fun w h hn => by simp [decode, h, decodeFamily8, hn])
      (by decide) x 0
  | drw x y n => exact decode_encode_drw x y n
  | skp x | sknp x =>
    exact decode_encodeXKK_sub (fun w h hkk => by simp [decode, h, decodeFamilyE, hkk]) (by decide) x
  | addI x | ldF x | ldB x | storeRegs x | loadRegs x | waitKey x | ldVDt x | ldDtV x =>
    exact decode_encodeXKK_sub (fun w h hkk => by simp [decode, h, decodeFamilyF, hkk]) (by decide) x

/-- Settles O4: the bytes laid out are the word (R52), and the word decodes to the operation. -/
theorem decodeOfImageBytes : Obligations.DecodeOfImageBytes := by
  intro i rest hi
  rw [encodeBytes, decodeBytes_bytesOfWord, decode_encode hi]

/-! ### The illegal words (R89) -/

theorem decodeFamily8_illegal {w : Word} (h : (nField w).val ∈ [0x7, 0x8, 0x9, 0xA, 0xB, 0xC, 0xD, 0xF]) :
    decodeFamily8 w = .unknownOpcode w := by
  unfold decodeFamily8
  split <;> simp_all

theorem decodeFamilyE_illegal {w : Word} (h : (kkField w).toNat ∉ [0x9E, 0xA1]) :
    decodeFamilyE w = .unknownOpcode w := by
  unfold decodeFamilyE
  split <;> simp_all

theorem decodeFamilyF_illegal {w : Word} (h : (kkField w).toNat ∉ [0x07, 0x0A, 0x15, 0x1E, 0x29, 0x33, 0x55, 0x65]) :
    decodeFamilyF w = .unknownOpcode w := by
  unfold decodeFamilyF
  split <;> simp_all

theorem decode_of_illegalWord {w : Word} (h : IllegalWord w) : decode w = .unknownOpcode w := by
  rcases h with ⟨hop, hn⟩ | ⟨hop, hn⟩ | ⟨hop, hn⟩ | hop | ⟨hop, hkk⟩ | ⟨hop, hkk⟩
  · simp only [decode, hop, if_neg hn]
  · simp only [decode, hop, decodeFamily8_illegal hn]
  · simp only [decode, hop, if_neg hn]
  · simp only [decode, hop]
  · simp only [decode, hop, decodeFamilyE_illegal hkk]
  · simp only [decode, hop, decodeFamilyF_illegal hkk]

/-! ### The faults of fetch and decode (R53, R302, R303) -/

/-- With the engine's turn, in status Running and with no shutdown, a step is the drain and then the fetch (R120). -/
theorem step_of_cycle {s : State} (turn : nextTurn s = .engine) (status : s.status = .running)
    (shut : s.shut = false) : step s = fetchExecute (drain (s.setSched s.sched.tail)) := by
  rw [step_of_live (by rw [status]; rfl), turn]
  simp [takeTurn, engineStep, status, cycle, shut]

theorem fetchExecute_of_pc_gt {s : State} (h : 0xFFE < s.pc.toNat) :
    fetchExecute s = .next (faultedState s .fetchOutOfRange s.pc.toNat) := by
  rw [fetchExecute, fetch_eq_none_iff.mpr h]
  rfl

theorem fetchExecute_of_illegalWord {s : State} {w : Word} (hf : fetch s = some w) (h : IllegalWord w) :
    fetchExecute s = .next (faultedState s .unknownOpcode w.toNat) := by
  simp only [fetchExecute, hf, decode_of_illegalWord h]
  rfl

/-- Settles O40: the drain moves neither pc nor memory, so the fetch after it faults, or fetches the word, as it would
from the state before. -/
theorem fetchAndDecodeFaults : Obligations.FetchAndDecodeFaults := by
  intro s turn status shut
  have hstep := step_of_cycle turn status shut
  refine ⟨fun hpc => hstep.trans (fetchExecute_of_pc_gt hpc), fun w hpc hw illegal => ?_⟩
  have hf : fetch (drain (s.setSched s.sched.tail)) = some w := hw ▸ fetch_eq_some hpc
  exact hstep.trans (fetchExecute_of_illegalWord hf illegal)

/-! ### A canonical memory is determined by what it reads (log entry 7) -/

theorem Memory.ne_background_of_lookup {m : Memory} {a : Nat} {v : Byte} (hm : m.wf = true)
    (h : m.lookup a = some v) : v ≠ Memory.background a := by
  induction m with
  | nil => cases h
  | cons c m ih =>
    obtain ⟨b, w⟩ := c
    obtain ⟨-, hw, -, hwf⟩ := Memory.wf_cons_iff.mp hm
    rw [Memory.lookup] at h
    split at h
    · next hb => cases h; exact hb ▸ hw
    · exact ih hwf h

/-- In canonical form an address is listed exactly where it does not read as its background. -/
theorem Memory.lookup_eq_of_wf {m : Memory} (hm : m.wf = true) (a : Nat) :
    m.lookup a = if m.read a = Memory.background a then none else some (m.read a) := by
  cases h : m.lookup a with
  | none => simp [Memory.read, h]
  | some v => simp [Memory.read, h, Memory.ne_background_of_lookup hm h]

/-- No address below the first one listed is listed. -/
theorem Memory.head_le_of_lookup {m : Memory} {a b : Nat} {v w : Byte} (hm : Memory.wf ((b, w) :: m) = true)
    (h : Memory.lookup ((b, w) :: m) a = some v) : b ≤ a := by
  obtain ⟨-, -, hlt, -⟩ := Memory.wf_cons_iff.mp hm
  by_contra hab
  have hnone : Memory.lookup ((b, w) :: m) a = none := by
    refine Memory.lookup_eq_none_of_lt fun c hc => ?_
    rcases List.mem_cons.mp hc with rfl | hc
    · omega
    · exact Nat.lt_trans (by omega) (hlt c hc)
  rw [hnone] at h
  cases h

theorem Memory.lookup_head (m : Memory) (a : Nat) (v : Byte) : Memory.lookup ((a, v) :: m) a = some v := if_pos rfl

/-- The entries after the first are what the lookup still finds when the first address is left out. -/
theorem Memory.lookup_tail {m : Memory} {a : Nat} {v : Byte} (hm : Memory.wf ((a, v) :: m) = true) (b : Nat) :
    m.lookup b = if a = b then none else Memory.lookup ((a, v) :: m) b := by
  obtain ⟨-, -, hlt, -⟩ := Memory.wf_cons_iff.mp hm
  split
  · next hab => exact hab ▸ Memory.lookup_eq_none_of_lt hlt
  · next hab => exact (if_neg hab).symm

theorem Memory.eq_of_lookup_eq {m n : Memory} (hm : m.wf = true) (hn : n.wf = true)
    (h : ∀ a, m.lookup a = n.lookup a) : m = n := by
  induction m generalizing n with
  | nil =>
    cases n with
    | nil => rfl
    | cons d n => exact absurd ((h d.1).trans (Memory.lookup_head n d.1 d.2)) (by simp [Memory.lookup])
  | cons c m ih =>
    obtain ⟨a, v⟩ := c
    cases n with
    | nil => exact absurd ((h a).symm.trans (Memory.lookup_head m a v)) (by simp [Memory.lookup])
    | cons d n =>
      obtain ⟨b, w⟩ := d
      have hb := (h b).trans (Memory.lookup_head n b w)
      have ha := (h a).symm.trans (Memory.lookup_head m a v)
      obtain rfl : a = b := Nat.le_antisymm (Memory.head_le_of_lookup hm hb) (Memory.head_le_of_lookup hn ha)
      obtain rfl : v = w := Option.some.inj ((Memory.lookup_head m a v).symm.trans hb)
      obtain ⟨-, -, -, hmt⟩ := Memory.wf_cons_iff.mp hm
      obtain ⟨-, -, -, hnt⟩ := Memory.wf_cons_iff.mp hn
      rw [ih hmt hnt fun e => by rw [Memory.lookup_tail hm, Memory.lookup_tail hn, h]]

/-- Settles O27: reads fix what is listed, and the rising order fixes the list. -/
theorem canonicalMemoryIsUnique : Obligations.CanonicalMemoryIsUnique := by
  intro m n hm hn h
  refine Memory.eq_of_lookup_eq hm hn fun a => ?_
  rw [Memory.lookup_eq_of_wf hm, Memory.lookup_eq_of_wf hn, h]

/-! ### Who writes memory (R37, R56) -/

theorem mem_block_of_read_storeBytes_ne {m : Memory} {base a : Nat} {bs : List Byte}
    (h : (storeBytes m base bs).read a ≠ m.read a) : base ≤ a ∧ a < base + bs.length := by
  by_contra hout
  exact h (read_storeBytes_outside m base bs (by omega))

/-- Only LD B and LD [I] write memory, each in its own block at I and inside the address space (R55, R56). -/
theorem ExecEffect.mem_writer {s t : State} {i : Instr} {a : Nat} (h : ExecEffect s i t)
    (hne : t.mem.read a ≠ s.mem.read a) :
    (∃ x, i = .ldB x ∧ s.iReg.toNat ≤ a ∧ a ≤ s.iReg.toNat + 2 ∧ a ≤ 0xFFF) ∨
    (∃ x, i = .storeRegs x ∧ s.iReg.toNat ≤ a ∧ a ≤ s.iReg.toNat + x.val ∧ a ≤ 0xFFF) := by
  cases h with
  | ldB x hin =>
    obtain ⟨hlo, hhi⟩ := mem_block_of_read_storeBytes_ne hne
    have hlen : (bcdDigits (s.readV x)).length = 3 := rfl
    exact .inl ⟨x, rfl, hlo, by omega, by omega⟩
  | storeRegs x hin =>
    obtain ⟨hlo, hhi⟩ := mem_block_of_read_storeBytes_ne hne
    rw [length_regBlock] at hhi
    have hlen : blockLength x = x.val + 1 := rfl
    exact .inr ⟨x, rfl, hlo, by omega, by omega⟩
  | _ => exact absurd rfl hne

/-- Settles O50: no turn but an executed operation's touches memory, and of the operations two do. -/
theorem memoryWriters : Obligations.MemoryWriters := by
  intro s t a h hne
  cases effect_of_step h with
  | exec i t executes effect =>
    rcases effect.mem_writer hne with ⟨x, rfl, hrange⟩ | ⟨x, rfl, hrange⟩
    · exact .inl ⟨x, executes, hrange⟩
    · exact .inr ⟨x, executes, hrange⟩
  | _ => exact absurd rfl hne

/-! ### A block store is seen by the next fetch (R54, R63) -/

/-- V[k] stands at base + k after V0..Vx are stored at base (R206). -/
theorem read_storeBytes_regBlock (s : State) (base : Nat) {k x : Reg} (h : k.val ≤ x.val) :
    (storeBytes s.mem base (regBlock s.v x)).read (base + k.val) = s.readV k := by
  have hk : k.val < (regBlock s.v x).length := by rw [length_regBlock, blockLength]; omega
  rw [read_storeBytes_inside _ _ _ hk, getElem_regBlock]
  rfl

/-- LD [I],Vx in range (R206). -/
theorem exec_storeRegs_in {x : Reg} {s : State} (h : s.iReg.toNat + x.val ≤ 0xFFF) :
    exec (.storeRegs x) s = .next (advance ((s.setMem (storeBytes s.mem s.iReg.toNat (regBlock s.v x))).setI
      (s.iReg + BitVec.ofNat 16 (blockLength x)))) :=
  withBlock_in (.inr (by rw [blockLength]; omega))

/-- Settles O26: the fetch reads the two bytes at pc from the memory the store left, and they are V[k] and V[k+1]. -/
theorem storedRegistersAreFetched : Obligations.StoredRegistersAreFetched := by
  intro x k l s hin hl hlx
  refine ⟨_, exec_storeRegs_in hin, fun u hmem hpc => ?_⟩
  have hhi : u.mem.read (s.iReg.toNat + k.val) = s.readV k :=
    (hmem _).trans (read_storeBytes_regBlock s _ (by omega))
  have hlo : u.mem.read (s.iReg.toNat + l.val) = s.readV l :=
    (hmem _).trans (read_storeBytes_regBlock s _ hlx)
  rw [fetch_eq_some (by omega), hpc, hhi, Nat.add_assoc, ← hl, hlo]

end Sys2Proof.Machine
end

section
/-! SUPPORT. The statements of spec/30_encoding.md: what the decoder answers at a word, said once (`SoundAnswer`), and
from it the encoding of a decoded operation and the illegal words. -/

namespace Sys2Proof.Machine

/-! ### The encoder puts a word's fields together again, format by format (R81, R83) -/

section
variable {w : Word} {op : Nat} (hop : opField w = op)
include hop

theorem encodeA_nnnField : encodeA op (nnnField w) = w := by
  rw [encodeA, ← hop, ← toNat_eq_op_nnn, BitVec.ofNat_toNat, BitVec.setWidth_eq]

theorem encodeXKK_fields : encodeXKK op (xField w) (kkField w) = w := by
  rw [encodeXKK, ← hop, ← toNat_eq_op_x_kk, BitVec.ofNat_toNat, BitVec.setWidth_eq]

theorem encodeXYN_fields : encodeXYN op (xField w) (yField w) (nField w) = w := by
  rw [encodeXYN, ← hop, ← toNat_eq_nibbles, BitVec.ofNat_toNat, BitVec.setWidth_eq]

theorem encodeXKK_sub {kk : Byte} (hkk : (kkField w).toNat = kk.toNat) : encodeXKK op (xField w) kk = w := by
  rw [← BitVec.eq_of_toNat_eq hkk, encodeXKK_fields hop]

theorem encodeXYN_sub {n : Fin 16} (hn : (nField w).val = n.val) : encodeXYN op (xField w) (yField w) n = w := by
  rw [← Fin.ext hn, encodeXYN_fields hop]

/-- With the y nibble left 0 the word comes back with bits 7 to 4 cleared (R91). -/
theorem encodeXYN_sub_zero {n : Fin 16} (hn : (nField w).val = n.val) :
    encodeXYN op (xField w) 0 n = w &&& 0xFF0F#16 := by
  have hop16 : op < 16 := hop ▸ opField_lt w
  have hhi : (w &&& 0xFF0F#16).toNat / 2 ^ 8 = w.toNat / 2 ^ 8 % 2 ^ 8 := by
    rw [BitVec.toNat_and, Nat.and_div_two_pow]
    exact Nat.and_two_pow_sub_one_eq_mod _ 8
  have hlo : (w &&& 0xFF0F#16).toNat % 2 ^ 8 = w.toNat % 2 ^ 8 % 2 ^ 4 := by
    rw [BitVec.toNat_and, Nat.and_mod_two_pow]
    exact Nat.and_two_pow_sub_one_eq_mod _ 4
  have hw := toNat_eq_nibbles w
  have hy := (yField w).isLt
  have hn16 := n.isLt
  apply BitVec.eq_of_toNat_eq
  rw [toNat_encodeXYN _ _ _ hop16, Fin.val_zero]
  omega

end

/-! ### The decoder's answer at a word -/

/-- The word with bits 7 to 4 cleared where the operation ignores them (R91). -/
def clearIgnored (w : Word) : Instr → Word
  | .shr _ => w &&& 0xFF0F#16
  | .shl _ => w &&& 0xFF0F#16
  | _ => w

/-- The answer is right for the word: a well-formed operation whose encoding is the word up to its ignored bits (R87,
R91), or UnknownOpcode carrying the word, at a word of R89. -/
def SoundAnswer (w : Word) : Decoded → Prop
  | .op i => i.wellFormed = true ∧ encode i = clearIgnored w i
  | .unknownOpcode u => IllegalWord w ∧ u = w

section
variable {w : Word}

theorem decodeFamily0_sound (hop : opField w = 0x0) : SoundAnswer w (decodeFamily0 w) := by
  have hw := encodeA_nnnField hop
  unfold decodeFamily0
  split
  · next hcls => exact ⟨rfl, hcls.symm⟩
  split
  · next hret => exact ⟨rfl, hret.symm⟩
  · next hcls hret =>
    have hE0 : nnnField w ≠ 0x0E0#12 := fun h => hcls (by rw [← hw, h]; rfl)
    have hEE : nnnField w ≠ 0x0EE#12 := fun h => hret (by rw [← hw, h]; rfl)
    exact ⟨by simp [Instr.wellFormed, hE0, hEE], hw⟩

theorem decodeFamily8_sound (hop : opField w = 0x8) : SoundAnswer w (decodeFamily8 w) := by
  unfold decodeFamily8
  split
  case h_1 hn | h_2 hn | h_3 hn | h_4 hn | h_5 hn | h_6 hn => exact ⟨rfl, encodeXYN_sub hop hn⟩
  case h_7 hn | h_8 hn => exact ⟨rfl, encodeXYN_sub_zero hop hn⟩
  case h_9 =>
    have := (nField w).isLt
    have hn : (nField w).val ∈ [0x7, 0x8, 0x9, 0xA, 0xB, 0xC, 0xD, 0xF] := by
      simp only [imp_false, List.mem_cons, List.not_mem_nil] at *
      omega
    exact ⟨.inr (.inl ⟨hop, hn⟩), rfl⟩

theorem decodeFamilyE_sound (hop : opField w = 0xE) : SoundAnswer w (decodeFamilyE w) := by
  unfold decodeFamilyE
  split
  case h_1 hkk | h_2 hkk => exact ⟨rfl, encodeXKK_sub hop hkk⟩
  case h_3 =>
    have hkk : (kkField w).toNat ∉ [0x9E, 0xA1] := by simp_all
    exact ⟨.inr (.inr (.inr (.inr (.inl ⟨hop, hkk⟩)))), rfl⟩

theorem decodeFamilyF_sound (hop : opField w = 0xF) : SoundAnswer w (decodeFamilyF w) := by
  unfold decodeFamilyF
  split
  case h_1 hkk | h_2 hkk | h_3 hkk | h_4 hkk | h_5 hkk | h_6 hkk | h_7 hkk | h_8 hkk =>
    exact ⟨rfl, encodeXKK_sub hop hkk⟩
  case h_9 =>
    have hkk : (kkField w).toNat ∉ [0x07, 0x0A, 0x15, 0x1E, 0x29, 0x33, 0x55, 0x65] := by simp_all
    exact ⟨.inr (.inr (.inr (.inr (.inr ⟨hop, hkk⟩)))), rfl⟩

/-- Row by row of R86. -/
theorem decode_sound (w : Word) : SoundAnswer w (decode w) := by
  unfold decode
  split
  case h_1 hop => exact decodeFamily0_sound hop
  case h_2 hop | h_3 hop | h_11 hop => exact ⟨rfl, encodeA_nnnField hop⟩
  case h_4 hop | h_5 hop | h_7 hop | h_8 hop | h_12 hop => exact ⟨rfl, encodeXKK_fields hop⟩
  case h_6 hop =>
    split
    · next hn => exact ⟨rfl, encodeXYN_sub hop hn⟩
    · next hn => exact ⟨.inl ⟨hop, hn⟩, rfl⟩
  case h_10 hop =>
    split
    · next hn => exact ⟨rfl, encodeXYN_sub hop hn⟩
    · next hn => exact ⟨.inr (.inr (.inl ⟨hop, hn⟩)), rfl⟩
  case h_9 hop => exact decodeFamily8_sound hop
  case h_13 hop => exact ⟨rfl, encodeXYN_fields hop⟩
  case h_14 hop => exact decodeFamilyE_sound hop
  case h_15 hop => exact decodeFamilyF_sound hop
  case h_16 =>
    have := opField_lt w
    have hop : opField w = 0xB := by
      simp only [imp_false] at *
      omega
    exact ⟨.inr (.inr (.inr (.inl hop))), rfl⟩

end

/-! ### Obligations -/

/-- Settles O1: `decode_encode`, the encoder's formats undone one by one. -/
theorem decodeOfEncodeIsTheOperation : Obligations.DecodeOfEncodeIsTheOperation := fun _ => decode_encode

/-- Settles O2: the operation's half of `decode_sound`. -/
theorem encodeOfDecodeIsTheWord : Obligations.EncodeOfDecodeIsTheWord := by
  intro w i h
  have hsound := decode_sound w
  rw [h] at hsound
  exact hsound

/-- Settles O3: one way the other half of `decode_sound`, the other way the illegal words family by family. -/
theorem illegalWordsAreUnknownOpcode : Obligations.IllegalWordsAreUnknownOpcode := by
  intro w u
  constructor
  · intro h
    have hsound := decode_sound w
    rw [h] at hsound
    exact hsound
  · rintro ⟨illegal, rfl⟩
    exact decode_of_illegalWord illegal

/-- Settles O5: the decoder evaluated at the ten words. -/
theorem writtenWordsDecode : Obligations.WrittenWordsDecode := by
  unfold Obligations.WrittenWordsDecode
  decide

end Sys2Proof.Machine
end

section
/-! SUPPORT. The statements of spec/40_sequencer.md: the bounds of R124 kept by every step, the control transfers, calls
that nest, the drain, and what a cycle runs. -/

namespace Sys2Proof.Machine

/-! ### The invariant (R124) -/

theorem toNat_add_le {a b : Word} {n : Nat} (h : a.toNat ≤ n) : (a + b).toNat ≤ n + b.toNat := by
  rw [BitVec.toNat_add]
  exact (Nat.mod_le _ _).trans (Nat.add_le_add_right h _)

@[simp] theorem toNat_zextAddr (nnn : Addr12) : (zextAddr nnn).toNat = nnn.toNat :=
  BitVec.toNat_setWidth_of_le (by decide)

theorem toNat_zextAddr_le (nnn : Addr12) : (zextAddr nnn).toNat ≤ 0xFFF := by
  rw [toNat_zextAddr]
  exact Nat.le_of_lt_succ nnn.isLt

section
variable {s t : State} {i : Instr} (h : ExecEffect s i t)
include h

/-- The two operations that write memory check their block first (R55), so its canonical form is kept. -/
theorem ExecEffect.mem_wf (hmem : s.mem.wf = true) : t.mem.wf = true := by
  cases h with
  | ldB x hin => exact wf_storeBytes hin hmem
  | storeRegs x hin => exact wf_storeBytes (by rwa [length_regBlock]) hmem
  | _ => exact hmem

/-- From an address that can be fetched pc moves by at most 4, jumps to an address of 12 bits, or goes two bytes past
the address of a CALL. -/
theorem ExecEffect.pc_le (hpc : s.pc.toNat ≤ 0xFFE) (hstack : StackInRange s) : t.pc.toNat ≤ 0x1002 := by
  have hnext : (s.pc + 2#16).toNat ≤ 0x1000 := toNat_add_le hpc
  cases h with
  | fault | waitKey => exact hpc.trans (by decide)
  | jp nnn | call nnn => exact (toNat_zextAddr_le nnn).trans (by decide)
  | skip taken =>
    cases taken with
    | true => exact toNat_add_le hpc
    | false => exact hnext.trans (by decide)
  | ret h0 =>
    have htop : s.stack[s.sp.val - 1].toNat ≤ 0xFFE := hstack ⟨s.sp.val - 1, by omega⟩ (by simp only; omega)
    exact (toNat_add_le htop).trans (by decide)
  | _ => exact hnext.trans (by decide)

/-- An operation that enters a key wait leaves pc where it is (R275). -/
theorem ExecEffect.pc_eq_of_waitKey {x : Reg} (hs : s.status = .running) (ht : t.status = .waitKey x) :
    t.pc = s.pc := by
  cases h with
  | fault => cases ht
  | waitKey => rfl
  | _ => exact absurd (hs.symm.trans ht) nofun

/-- CALL puts the address of a fetched instruction on the stack, and RET only takes an entry away. -/
theorem ExecEffect.stackInRange (hpc : s.pc.toNat ≤ 0xFFE) (hstack : StackInRange s) : StackInRange t := by
  cases h with
  | call nnn hsp =>
    intro j hj
    change (s.stack.set s.sp.val s.pc hsp)[j.val].toNat ≤ 0xFFE
    rw [Vector.getElem_set]
    split
    · exact hpc
    · next hne => exact hstack j (Nat.lt_of_le_of_ne (Nat.le_of_lt_succ hj) (Ne.symm hne))
  | ret h0 => exact fun j hj => hstack j (hj.trans_le (Nat.sub_le _ _))
  | _ => exact hstack

/-- An operation fetched in status Running keeps the invariant. -/
theorem ExecEffect.inv (hs : s.status = .running) (hpc : s.pc.toNat ≤ 0xFFE) (hmem : s.mem.wf = true)
    (hstack : StackInRange s) : Inv t :=
  ⟨h.mem_wf hmem, ⟨h.pc_le hpc hstack, fun _ ht => h.pc_eq_of_waitKey hs ht ▸ hpc⟩, h.stackInRange hpc hstack⟩

end

/-- Settles O60: an executed operation by `ExecEffect.inv`; of the other turns only the press that ends a key wait moves
pc, and it starts from an address at most 0xFFE. -/
theorem stepKeepsTheInvariant : Obligations.StepKeepsTheInvariant := by
  rintro s t ⟨hmem, ⟨hpc, hwait⟩, hstack⟩ h
  cases effect_of_step h with
  | exec i t executes effect =>
    obtain ⟨-, status, -, hfetch, -⟩ := executes
    exact effect.inv status hfetch hmem hstack
  | press x k rest turn status queue =>
    exact ⟨hmem, ⟨(toNat_add_le (hwait x status)).trans (by decide), nofun⟩, hstack⟩
  | halt | fault => exact ⟨hmem, ⟨hpc, nofun⟩, hstack⟩
  | _ => exact ⟨hmem, ⟨hpc, hwait⟩, hstack⟩

/-! ### Operations that write pc alone (R125, R126, R129 to R132) -/

theorem frameExceptRegs_setPc (s : State) (a : Word) : FrameExceptRegs [] s (s.setPc a) :=
  ⟨fun _ _ => rfl, rfl, fun _ => rfl, ⟨fun _ => rfl, rfl⟩, rfl, ⟨rfl, rfl, rfl, rfl, rfl⟩, rfl, rfl, rfl⟩

theorem skipsWhen_of_exec {i : Instr} {c : State → Prop} {taken : State → Bool}
    (hexec : ∀ s, exec i s = .next (skipIf (taken s) s)) (htaken : ∀ s, taken s = true ↔ c s) : SkipsWhen i c :=
  fun s => ⟨_, hexec s, fun hc => if_pos ((htaken s).mpr hc), fun hc => if_neg (mt (htaken s).mp hc),
    frameExceptRegs_setPc s _⟩

/-- Settles O19: each skip's test, as the model computes it, is the condition of its rule. -/
theorem comparingSkips : Obligations.ComparingSkips := by
  refine ⟨fun w hop => ?_, fun w hop => ?_, fun w hop hn => ?_, fun w hop hn => ?_, fun x kk => ?_, fun x kk => ?_,
    fun x y => ?_, fun x y => ?_⟩
  · simp only [decode, hop]
  · simp only [decode, hop]
  · simp only [decode, hop, if_pos hn]
  · simp only [decode, hop, if_pos hn]
  · exact skipsWhen_of_exec (fun _ => rfl) fun _ => beq_iff_eq
  · exact skipsWhen_of_exec (fun _ => rfl) fun _ => bne_iff_ne
  · exact skipsWhen_of_exec (fun _ => rfl) fun _ => beq_iff_eq
  · exact skipsWhen_of_exec (fun _ => rfl) fun _ => bne_iff_ne

/-- Settles O14: the words of family 0x0 but the two fixed ones, and SYS as the default advance of pc. -/
theorem sysIsNoOperation : Obligations.SysIsNoOperation := by
  refine ⟨fun w hop hcls hret => ?_, fun nnn s => ⟨advance s, rfl, rfl, frameExceptRegs_setPc s _⟩⟩
  simp only [decode, hop, decodeFamily0, if_neg hcls, if_neg hret]

/-- Settles O15: pc is nnn with four zero bits above it. -/
theorem jumpSetsPc : Obligations.JumpSetsPc := by
  refine ⟨fun w hop => ?_, fun nnn s => ⟨jumpTo nnn s, rfl, toNat_zextAddr nnn, frameExceptRegs_setPc s _⟩⟩
  simp only [decode, hop]

/-! ### CALL and RET (R127, R128) -/

section
variable {s : State}

theorem exec_call (nnn : Addr12) (h : s.sp.val < 16) :
    exec (.call nnn) s =
      .next (jumpTo nnn ((s.setStack (s.stack.set s.sp.val s.pc h)).setSp ⟨s.sp.val + 1, by omega⟩)) := by
  simp only [exec, execCall, push_eq_some h]

theorem exec_call_full (nnn : Addr12) (h : s.sp.val = 16) :
    exec (.call nnn) s = .next (faultedState s .stackOverflow s.pc.toNat) := by
  simp only [exec, execCall, push_eq_none_iff.mpr h]
  rfl

theorem exec_ret {j : Fin 16} (h : s.sp.val = j.val + 1) :
    exec .ret s = .next ((s.setSp ⟨j.val, by omega⟩).setPc (s.stack[j.val] + 2#16)) := by
  simp only [exec, execRet, pop_eq_some (s := s) (by omega), h, Nat.add_sub_cancel]

theorem exec_ret_empty (h : s.sp.val = 0) :
    exec .ret s = .next (faultedState s .stackUnderflow s.pc.toNat) := by
  simp only [exec, execRet, pop_eq_none_iff.mpr h]
  rfl

end

/-- Settles O16: the push writes one entry, and a full stack has none to write. -/
theorem callPushesItsOwnAddress : Obligations.CallPushesItsOwnAddress := by
  refine ⟨fun w hop => ?_, fun nnn s => ⟨fun h => ⟨_, exec_call nnn h, fun j => ?_, rfl, toNat_zextAddr nnn,
    fun _ _ => rfl, rfl, fun _ => rfl, rfl, ⟨rfl, rfl, rfl, rfl, rfl⟩, rfl, rfl, rfl⟩, exec_call_full nnn⟩⟩
  · simp only [decode, hop]
  · change (s.stack.set s.sp.val s.pc h)[j.val] = _
    simp only [Vector.getElem_set, eq_comm]

/-- Settles O17: the pop reads the entry below sp and writes sp alone, and an empty stack has no entry. -/
theorem returnGoesPastTheCall : Obligations.ReturnGoesPastTheCall :=
  ⟨rfl, fun _ => ⟨fun _ h => ⟨_, exec_ret h, rfl, rfl, fun _ => rfl, fun _ _ => rfl, rfl, fun _ => rfl, rfl,
    ⟨rfl, rfl, rfl, rfl, rfl⟩, rfl, rfl, rfl⟩, exec_ret_empty⟩⟩

/-! ### Nested calls -/

/-- `u` is `s` up to pc and the stack entries not in use: what calls and as many returns leave. -/
def Unwound (s u : State) : Prop :=
  ∃ (entries : Vector Word 16) (pc : Word), u = (s.setStack entries).setPc pc ∧
    ∀ j : Fin 16, j.val < s.sp.val → entries[j.val] = s.stack[j.val]

theorem Unwound.refl (s : State) : Unwound s s := ⟨s.stack, s.pc, rfl, fun _ _ => rfl⟩

theorem callAll_cons {a : Addr12} {s t : State} (as : List Addr12) (h : exec (.call a) s = .next t) :
    callAll (a :: as) s = callAll as t := by
  rw [callAll, h]

/-- One more return after `n` of them. -/
theorem retAll_succ {n : Nat} {s t u : State} (h : retAll n s = some t) (hret : exec .ret t = .next u) :
    retAll (n + 1) s = some u := by
  induction n generalizing s with
  | zero =>
    cases h
    rw [retAll, hret]
    rfl
  | succ n ih =>
    rw [retAll] at h ⊢
    cases hs : exec .ret s with
    | next s' => exact ih (by rwa [hs] at h)
    | fault r | refused r => rw [hs] at h; cases h

/-- A return from where a CALL's callee has unwound goes past the CALL: its own entry is still in place. -/
theorem ret_after_call {nnn : Addr12} {s t u : State} (hsp : s.sp.val < 16) (hcall : exec (.call nnn) s = .next t)
    (hu : Unwound t u) : ∃ v, exec .ret u = .next v ∧ v.pc = s.pc + 2#16 ∧ Unwound s v := by
  rw [exec_call nnn hsp] at hcall
  cases hcall
  obtain ⟨entries, pc, rfl, hkept⟩ := hu
  have hpushed (j : Fin 16) (hj : j.val < s.sp.val + 1) :
      entries[j.val] = (s.stack.set s.sp.val s.pc hsp)[j.val] := hkept j hj
  refine ⟨_, exec_ret (j := ⟨s.sp.val, hsp⟩) rfl, ?_, entries, _, rfl, fun j hj => ?_⟩
  · have htop : entries[s.sp.val] = s.pc := by simpa using hpushed ⟨s.sp.val, hsp⟩ (Nat.lt_succ_self _)
    exact congrArg (· + 2#16) htop
  · rw [hpushed j (Nat.lt_succ_of_lt hj), Vector.getElem_set_ne _ _ (Nat.ne_of_gt hj)]

/-- Calls the stack has room for, then as many returns: the state is unwound, past the first CALL if there was one. -/
theorem callAll_retAll (targets : List Addr12) {s : State} (h : s.sp.val + targets.length ≤ 16) :
    ∃ t u, callAll targets s = some t ∧ t.sp.val = s.sp.val + targets.length ∧ retAll targets.length t = some u ∧
      Unwound s u ∧ (targets ≠ [] → u.pc = s.pc + 2#16) := by
  induction targets generalizing s with
  | nil => exact ⟨s, s, rfl, rfl, rfl, .refl s, absurd rfl⟩
  | cons first more ih =>
    rw [List.length_cons] at h
    have hsp : s.sp.val < 16 := by omega
    obtain ⟨callee, hcall, hcallee⟩ : ∃ callee, exec (.call first) s = .next callee ∧ callee.sp.val = s.sp.val + 1 :=
      ⟨_, exec_call first hsp, rfl⟩
    obtain ⟨t, u, hcalls, htop, hrets, hu, -⟩ := ih (s := callee) (by omega)
    obtain ⟨v, hret, hpc, hv⟩ := ret_after_call hsp hcall hu
    have htop' : t.sp.val = s.sp.val + (first :: more).length := by rw [htop, hcallee, List.length_cons]; omega
    exact ⟨t, v, (callAll_cons more hcall).trans hcalls, htop', retAll_succ hrets hret, hv, fun _ => hpc⟩

/-- Settles O18: `callAll_retAll`, whose `Unwound` keeps everything but pc and the entries above sp. -/
theorem nestedCallsUnwind : Obligations.NestedCallsUnwind := by
  intro first more s h
  obtain ⟨t, u, hcalls, htop, hrets, ⟨entries, pc, rfl, -⟩, hpc⟩ := callAll_retAll (first :: more) h
  exact ⟨t, _, hcalls, htop, hrets, hpc (List.cons_ne_nil _ _), rfl, fun _ _ => rfl, fun _ => rfl, rfl, rfl, rfl⟩

/-! ### The drain (R121) -/

/-- After events in turn a key is as its last event says, and as before if it has none. -/
theorem getElem_foldl_applyEvent (m : KeyMap) (q : List KeyEvent) (k : Key) :
    (q.foldl applyEvent m)[k.val] =
      ((q.filter fun e => e.key = k).getLast?.elim m[k.val] fun e => e.action == .pressed) := by
  induction q using List.reverseRecOn with
  | nil => rfl
  | append_singleton q e ih =>
    rw [List.foldl_append, List.foldl_cons, List.foldl_nil, getElem_applyEvent, List.filter_append]
    by_cases hk : e.key = k
    · simp [hk]
    · have hval : e.key.val ≠ k.val := fun h => hk (Fin.ext h)
      simp [hk, hval, ih]

/-- Settles O39: the drain is the fold of `getElem_foldl_applyEvent`. -/
theorem drainAppliesTheLastEvent : Obligations.DrainAppliesTheLastEvent := by
  refine fun s => ⟨rfl, fun k => ?_, rfl⟩
  have hkey : (drain s).keys[k.val] = _ := getElem_foldl_applyEvent s.keys s.kq k
  rw [hkey]
  cases (s.kq.filter fun e => e.key = k).getLast? <;> rfl

/-! ### The cycle (R120, R122) -/

theorem fetchExecute_of_op {s : State} {w : Word} {i : Instr} (hf : fetch s = some w) (hd : decode w = .op i) :
    fetchExecute s = exec i s := by
  simp only [fetchExecute, hf, hd]

/-- Settles O38: the drain moves neither pc nor memory, so the fetch after it reads the word at pc. -/
theorem stepRunsTheDecodedOperation : Obligations.StepRunsTheDecodedOperation := by
  rintro i s ⟨turn, status, shut, hpc, hd⟩
  exact (step_of_cycle turn status shut).trans
    (fetchExecute_of_op (s := drain (s.setSched s.sched.tail)) (fetch_eq_some hpc) hd)

theorem engineStep_of_shutdown {s : State} (live : s.status.live = true) (shut : s.shut = true) :
    engineStep s = .next (s.setStatus .halted) := by
  unfold engineStep
  cases hs : s.status with
  | running => exact if_pos shut
  | waitKey x => exact congrArg _ (waitStep_shutdown shut)
  | halted | faulted => rw [hs] at live; cases live

/-- Settles O42: the turn is the engine's, and in either live status its step looks at the flag first. -/
theorem shutdownHaltsTheEngine : Obligations.ShutdownHaltsTheEngine := by
  intro s turn live shut
  rw [step_of_live live, turn]
  exact engineStep_of_shutdown (s := s.setSched s.sched.tail) live shut

end Sys2Proof.Machine
end

section
/-! SUPPORT. The statements of spec/41_alu.md: a byte written to one register, a byte and a flag in the two orders of
R33, and the values the flags take. -/

namespace Sys2Proof.Machine

/-! ### One register written (R160 to R162, R164 to R166) -/

/-- The frame of an operation whose execute step writes the register file alone. -/
theorem SameRegsExcept.frame {written : List Reg} {s : State} {v : Regs}
    (h : SameRegsExcept written s (s.setRegFile v)) : FrameExceptRegs written s (advance (s.setRegFile v)) :=
  ⟨h, rfl, fun _ => rfl, ⟨fun _ => rfl, rfl⟩, rfl, ⟨rfl, rfl, rfl, rfl, rfl⟩, rfl, rfl, rfl⟩

theorem setsRegister_of_exec {i : Instr} {x : Reg} {value : State → Byte}
    (hexec : ∀ s, exec i s = .next (advance (s.writeV x (value s)))) : SetsRegister i x value :=
  fun s => ⟨_, hexec s, readV_writeV_self s x _, rfl, ((SameRegsExcept.refl [x] s).writeV _ (.head _)).frame⟩

/-- Settles O6: both loads are one register write, of kk and of V[y]. -/
theorem loadsSetOneRegister : Obligations.LoadsSetOneRegister := by
  refine ⟨fun w hop => ?_, fun w hop hn => ?_, fun x kk => ?_, fun x y => ?_⟩
  · simp only [decode, hop]
  · simp only [decode, hop, decodeFamily8, hn]
  · exact setsRegister_of_exec fun _ => rfl
  · exact setsRegister_of_exec fun _ => rfl

/-- Settles O7: the sum of bytes is the sum modulo 256. -/
theorem addImmediateWrapsWithoutFlag : Obligations.AddImmediateWrapsWithoutFlag := by
  refine ⟨fun w hop => ?_, fun x kk => setsRegister_of_exec fun s => ?_⟩
  · simp only [decode, hop]
  · rw [← BitVec.toNat_add, BitVec.ofNat_toNat, BitVec.setWidth_eq]
    rfl

/-- Settles O9: the three operations are one register write each. -/
theorem logicSetsOneRegister : Obligations.LogicSetsOneRegister := by
  refine ⟨fun w hop hn => ?_, fun w hop hn => ?_, fun w hop hn => ?_, fun x y =>
    ⟨setsRegister_of_exec fun _ => rfl, setsRegister_of_exec fun _ => rfl, setsRegister_of_exec fun _ => rfl⟩⟩
  · simp only [decode, hop, decodeFamily8, hn]
  · simp only [decode, hop, decodeFamily8, hn]
  · simp only [decode, hop, decodeFamily8, hn]

/-! ### A register and the flag written (R33, decision D18) -/

section
variable (s : State) (x : Reg) (c : Byte)

/-- With the flag last it is in VF whatever x is, and V[x] has its byte where it is not VF. -/
theorem writeV_writeFlag_spec (b : Byte) :
    let t := advance ((s.writeV x b).writeFlag c)
    (x ≠ vf → t.readV x = b) ∧ t.readV vf = c ∧ FrameExceptRegs [x, vf] s t :=
  ⟨fun hx => (readV_writeV_ne _ c hx).trans (readV_writeV_self s x b), readV_writeV_self _ vf c,
    (((SameRegsExcept.refl [x, vf] s).writeV b (.head _)).writeV c (.tail _ (.head _))).frame⟩

/-- With the flag first `f` is applied to V[x] as the flag left it: where x = F that is the flag. -/
theorem writeFlag_writeV_spec (f : Byte → Byte) :
    let t := advance ((s.writeFlag c).writeV x (f ((s.writeFlag c).readV x)))
    (x ≠ vf → t.readV x = f (s.readV x)) ∧ t.readV vf = (if x = vf then f c else c) ∧
    FrameExceptRegs [x, vf] s t := by
  refine ⟨fun hx => ?_, ?_,
    (((SameRegsExcept.refl [x, vf] s).writeV c (.tail _ (.head _))).writeV _ (.head _)).frame⟩
  · exact (readV_writeV_self _ x _).trans (congrArg f (readV_writeV_ne s c hx))
  · split
    · next hx =>
      subst hx
      exact (readV_writeV_self _ vf _).trans (congrArg f (readV_writeV_self s vf c))
    · next hx => exact (readV_writeV_ne _ _ (Ne.symm hx)).trans (readV_writeV_self s vf c)

end

theorem flagByte_decide (p : Prop) [Decidable p] : flagByte (decide p) = if p then 1#8 else 0#8 := by
  simp only [flagByte, decide_eq_true_eq]

/-- Settles O8: the flag last, and the carry's test. -/
theorem addRegisterSetsCarry : Obligations.AddRegisterSetsCarry := by
  refine ⟨fun w hop hn => ?_, fun x y s => ?_⟩
  · simp only [decode, hop, decodeFamily8, hn]
  · obtain ⟨hx, hvf, hframe⟩ :=
      writeV_writeFlag_spec s x (carryFlag (s.readV x) (s.readV y)) (s.readV x + s.readV y)
    refine ⟨_, rfl, fun hne => ?_, hvf.trans (flagByte_decide _), rfl, hframe⟩
    rw [hx hne, BitVec.toNat_add]

/-- Settles O10: the flag last, and the strict test of not-borrow. -/
theorem subtractSetsStrictNotBorrow : Obligations.SubtractSetsStrictNotBorrow := by
  refine ⟨fun w hop hn => ?_, fun x y s => ?_⟩
  · simp only [decode, hop, decodeFamily8, hn]
  · obtain ⟨hx, hvf, hframe⟩ :=
      writeV_writeFlag_spec s x (notBorrowFlag (s.readV x) (s.readV y)) (s.readV x - s.readV y)
    refine ⟨_, rfl, fun hne => ?_, hvf.trans (flagByte_decide _), rfl, hframe⟩
    have hy := (s.readV y).isLt
    rw [hx hne, BitVec.toNat_sub]
    omega

/-! ### The bits the shifts put out (R168, R169) -/

section
variable (a : Byte)

theorem shrFlag_eq_ofNat : shrFlag a = BitVec.ofNat 8 (a.toNat % 2) := by
  apply BitVec.eq_of_toNat_eq
  rw [shrFlag, BitVec.toNat_and, BitVec.toNat_ofNat, BitVec.toNat_ofNat, Nat.and_one_is_mod]
  omega

theorem shrFlag_ushiftRight : shrFlag a >>> 1 = 0#8 := by
  apply BitVec.eq_of_toNat_eq
  rw [shrFlag_eq_ofNat, BitVec.toNat_ushiftRight, Nat.shiftRight_one, BitVec.toNat_ofNat, BitVec.toNat_ofNat]
  omega

theorem shlFlag_eq_ofNat : shlFlag a = BitVec.ofNat 8 (a.toNat / 128) := by
  have ha := a.isLt
  apply BitVec.eq_of_toNat_eq
  rw [shlFlag, BitVec.toNat_and, BitVec.toNat_ushiftRight, Nat.shiftRight_eq_div_pow, BitVec.toNat_ofNat,
    BitVec.toNat_ofNat, Nat.and_one_is_mod]
  omega

theorem shlFlag_shiftLeft : shlFlag a <<< 1 = BitVec.ofNat 8 (2 * (a.toNat / 128)) := by
  apply BitVec.eq_of_toNat_eq
  rw [shlFlag_eq_ofNat, BitVec.toNat_shiftLeft, Nat.shiftLeft_eq, BitVec.toNat_ofNat, BitVec.toNat_ofNat]
  omega

end

/-- Settles O11: the flag first; with x = F it is the flag that is shifted, and its one bit goes out. -/
theorem shiftRightSetsFlagFirst : Obligations.ShiftRightSetsFlagFirst := by
  refine ⟨fun w hop hn => ?_, fun x s => ?_⟩
  · simp only [decode, hop, decodeFamily8, hn]
  · obtain ⟨hx, hvf, hframe⟩ := writeFlag_writeV_spec s x (shrFlag (s.readV x)) (· >>> 1)
    refine ⟨_, rfl, fun hne => ?_, ?_, rfl, hframe⟩
    · rw [hx hne, BitVec.toNat_ushiftRight, Nat.shiftRight_one]
    · rw [hvf, shrFlag_ushiftRight, shrFlag_eq_ofNat]

/-- Settles O12: the flag first; with x = F it is the flag that is shifted, to bit 1. -/
theorem shiftLeftSetsFlagFirst : Obligations.ShiftLeftSetsFlagFirst := by
  refine ⟨fun w hop hn => ?_, fun x s => ?_⟩
  · simp only [decode, hop, decodeFamily8, hn]
  · obtain ⟨hx, hvf, hframe⟩ := writeFlag_writeV_spec s x (shlFlag (s.readV x)) (· <<< 1)
    refine ⟨_, rfl, fun hne => ?_, ?_, rfl, hframe⟩
    · rw [hx hne, BitVec.toNat_shiftLeft, Nat.shiftLeft_eq]
    · rw [hvf, shlFlag_shiftLeft, shlFlag_eq_ofNat, apply_ite (BitVec.ofNat 8)]

/-! ### RND (R170, decision D19) -/

/-- A masked byte has no bit outside its mask. -/
theorem and_and_not_self (a b : Byte) : a &&& b &&& ~~~a = 0#8 := by
  rw [BitVec.and_comm a b, BitVec.and_assoc, BitVec.and_not_self]
  exact BitVec.and_zero

/-- Settles O13: counting the draw leaves what the register write reads as it was. -/
theorem randomIsMaskedDraw : Obligations.RandomIsMaskedDraw := by
  refine ⟨fun w hop => ?_, fun x kk s => ?_⟩
  · simp only [decode, hop]
  · have hx := readV_writeV_self (s.setDraws (s.draws + 1)) x (kk &&& Config.randomByte s.draws)
    have hregs : SameRegsExcept [x] s (s.setDraws (s.draws + 1)) := fun _ _ => rfl
    exact ⟨_, rfl, hx, (congrArg (· &&& ~~~kk) hx).trans (and_and_not_self kk _), rfl, rfl, hregs.writeV _ (.head _),
      rfl, fun _ => rfl, ⟨fun _ => rfl, rfl⟩, rfl, ⟨rfl, rfl, rfl, rfl, rfl⟩, rfl, rfl⟩

end Sys2Proof.Machine
end

section
/-! SUPPORT. The statements of spec/42_index_memory.md: what is put in I, the decimal digits, and the blocks of bytes
that go between registers and memory. -/

namespace Sys2Proof.Machine

/-! ### The index register (R201 to R204) -/

theorem setsIndex_of_exec {i : Instr} {value : State → Nat} {a : State → Word}
    (hexec : ∀ s, exec i s = .next (advance (s.setI (a s)))) (ha : ∀ s, (a s).toNat = value s) : SetsIndex i value :=
  fun s => ⟨_, hexec s, ha s, rfl, fun _ _ => rfl, fun _ => rfl, ⟨fun _ => rfl, rfl⟩, rfl,
    ⟨rfl, rfl, rfl, rfl, rfl⟩, rfl, rfl, rfl⟩

/-- No font address of R204 is cut: the largest is 5 × 255. -/
theorem toNat_fontAddress (b : Byte) : (fontAddress b).toNat = 5 * b.toNat := by
  have hb := b.isLt
  simp only [fontAddress, Config.fontBase, Config.glyphBytes, BitVec.toNat_ofNat]
  omega

/-- Settles O20: both are one write of I, and neither value is cut by I's 16 bits. -/
theorem indexLoads : Obligations.IndexLoads := by
  refine ⟨fun w hop => ?_, fun w hop hkk => ?_, fun nnn => ?_, fun x => ?_⟩
  · simp only [decode, hop]
  · simp only [decode, hop, decodeFamilyF, hkk]
  · exact setsIndex_of_exec (fun _ => rfl) fun _ => toNat_zextAddr nnn
  · exact setsIndex_of_exec (fun _ => rfl) fun s => toNat_fontAddress (s.readV x)

section
variable {x : Reg} {s : State}

theorem exec_addI_in (h : s.iReg.toNat + (s.readV x).toNat ≤ 0xFFFF) :
    exec (.addI x) s = .next (advance (s.setI (BitVec.ofNat 16 (s.iReg.toNat + (s.readV x).toNat)))) :=
  if_neg (Nat.not_lt.mpr h)

theorem exec_addI_overflow (h : 0xFFFF < s.iReg.toNat + (s.readV x).toNat) :
    exec (.addI x) s = .next (faultedState s .indexOverflow (s.iReg.toNat + (s.readV x).toNat)) :=
  if_pos h

end

/-- Settles O21: the sum is tested before I is written, so what is written fits in I. -/
theorem addToIndexOrOverflow : Obligations.AddToIndexOrOverflow := by
  refine ⟨fun w hop hkk => ?_, fun x s => ⟨fun h => ⟨_, exec_addI_in h, ?_, rfl, fun _ _ => rfl, fun _ => rfl,
    ⟨fun _ => rfl, rfl⟩, rfl, ⟨rfl, rfl, rfl, rfl, rfl⟩, rfl, rfl, rfl⟩, exec_addI_overflow⟩⟩
  · simp only [decode, hop, decodeFamilyF, hkk]
  · exact Nat.mod_eq_of_lt (Nat.lt_succ_of_le h)

/-! ### The range check of the three transfers, and what a store leaves alone (R55, R205 to R207) -/

section
variable {x : Reg} {s : State}

theorem exec_ldB_in (h : s.iReg.toNat + 2 ≤ 0xFFF) :
    exec (.ldB x) s = .next (advance (s.setMem (storeBytes s.mem s.iReg.toNat (bcdDigits (s.readV x))))) :=
  withBlock_in (.inr (by omega))

theorem exec_ldB_out (h : 0xFFF < s.iReg.toNat + 2) :
    exec (.ldB x) s = .next (faultedState s .addressOutOfRange (max s.iReg.toNat 0x1000)) :=
  withBlock_out (by decide) (by omega)

theorem exec_storeRegs_out (h : 0xFFF < s.iReg.toNat + x.val) :
    exec (.storeRegs x) s = .next (faultedState s .addressOutOfRange (max s.iReg.toNat 0x1000)) :=
  withBlock_out (Nat.succ_pos _) (by rw [blockLength]; omega)

theorem exec_loadRegs_in (h : s.iReg.toNat + x.val ≤ 0xFFF) :
    exec (.loadRegs x) s =
      .next (advance ((s.setRegFile (writeRegs s.v 0 (readBytes s.mem s.iReg.toNat (blockLength x)))).setI
        (s.iReg + BitVec.ofNat 16 (blockLength x)))) :=
  withBlock_in (.inr (by rw [blockLength]; omega))

theorem exec_loadRegs_out (h : 0xFFF < s.iReg.toNat + x.val) :
    exec (.loadRegs x) s = .next (faultedState s .addressOutOfRange (max s.iReg.toNat 0x1000)) :=
  withBlock_out (Nat.succ_pos _) (by rw [blockLength]; omega)

/-- I moved past a block in range does not wrap (R206, R207). -/
theorem toNat_iReg_add_blockLength (h : s.iReg.toNat + x.val ≤ 0xFFF) :
    (s.iReg + BitVec.ofNat 16 (blockLength x)).toNat = s.iReg.toNat + x.val + 1 := by
  rw [BitVec.toNat_add, BitVec.toNat_ofNat, blockLength]
  omega

end

theorem sameMemoryOutside_of_storeBytes {s t : State} {base len : Nat} {bs : List Byte}
    (hmem : t.mem = storeBytes s.mem base bs) (hlen : bs.length = len) : SameMemoryOutside base len s t := by
  subst hlen
  exact fun a ha => hmem ▸ read_storeBytes_outside s.mem base bs ha

/-! ### The decimal digits (R205) -/

/-- The three digits stand at base, base + 1 and base + 2: each fits in a byte. -/
theorem toNat_read_storeBytes_bcdDigits (m : Memory) (base : Nat) (b : Byte) :
    let t := storeBytes m base (bcdDigits b)
    (t.read base).toNat = b.toNat / 100 ∧ (t.read (base + 1)).toNat = b.toNat / 10 % 10 ∧
      (t.read (base + 2)).toNat = b.toNat % 10 := by
  have hb := b.isLt
  have hbyte (k : Nat) (hk : k < 3) := congrArg BitVec.toNat (read_storeBytes_inside m base (bcdDigits b) hk)
  exact ⟨(hbyte 0 (by decide)).trans (Nat.mod_eq_of_lt (by omega)),
    (hbyte 1 (by decide)).trans (Nat.mod_eq_of_lt (by omega)),
    (hbyte 2 (by decide)).trans (Nat.mod_eq_of_lt (by omega))⟩

/-- Settles O22: each address of the block holds its digit, and no other byte is written. -/
theorem decimalStore : Obligations.DecimalStore := by
  refine ⟨fun w hop hkk => ?_, fun x s => ⟨fun h => ?_, exec_ldB_out⟩⟩
  · simp only [decode, hop, decodeFamilyF, hkk]
  · obtain ⟨hhundreds, htens, hones⟩ := toNat_read_storeBytes_bcdDigits s.mem s.iReg.toNat (s.readV x)
    exact ⟨_, exec_ldB_in h, hhundreds, htens, hones, sameMemoryOutside_of_storeBytes rfl rfl, rfl, fun _ _ => rfl, rfl,
      ⟨fun _ => rfl, rfl⟩, rfl, ⟨rfl, rfl, rfl, rfl, rfl⟩, rfl, rfl, rfl⟩

/-! ### Blocks of registers (R206, R207) -/

/-- Settles O23: V[k] stands at I + k, no byte outside the block is written, and I does not wrap. -/
theorem blockStore : Obligations.BlockStore := by
  refine ⟨fun w hop hkk => ?_, fun x s => ⟨fun h => ?_, exec_storeRegs_out⟩⟩
  · simp only [decode, hop, decodeFamilyF, hkk]
  · exact ⟨_, exec_storeRegs_in h, fun _ => read_storeBytes_regBlock s _,
      sameMemoryOutside_of_storeBytes rfl (length_regBlock s.v x), toNat_iReg_add_blockLength h, rfl, fun _ _ => rfl,
      ⟨fun _ => rfl, rfl⟩, rfl, ⟨rfl, rfl, rfl, rfl, rfl⟩, rfl, rfl, rfl⟩

/-- A block load puts the byte at base + k in V[k], up to V[x], and writes no register above it. -/
theorem readV_writeRegs_readBytes (s : State) (base : Nat) (x k : Reg) :
    (s.setRegFile (writeRegs s.v 0 (readBytes s.mem base (blockLength x)))).readV k =
      if k.val ≤ x.val then s.mem.read (base + k.val) else s.readV k := by
  have hlen : (readBytes s.mem base (blockLength x)).length = x.val + 1 := length_readBytes _ _ _
  rw [readV_setRegFile, getElem_writeRegs, if_pos (Nat.zero_le _), Nat.sub_zero]
  split
  · next h => rw [List.getD_eq_getElem _ _ (by omega), getElem_readBytes]
  · next h =>
    rw [List.getD_eq_default _ _ (by omega)]
    rfl

/-- Settles O24: V[k] has the byte at I + k, no register above V[x] is written, and I does not wrap. -/
theorem blockLoad : Obligations.BlockLoad := by
  refine ⟨fun w hop hkk => ?_, fun x s => ⟨fun h => ?_, exec_loadRegs_out⟩⟩
  · simp only [decode, hop, decodeFamilyF, hkk]
  · exact ⟨_, exec_loadRegs_in h, readV_writeRegs_readBytes s _ x, toNat_iReg_add_blockLength h, rfl, fun _ => rfl,
      ⟨fun _ => rfl, rfl⟩, rfl, ⟨rfl, rfl, rfl, rfl, rfl⟩, rfl, rfl, rfl⟩

/-- Settles O25: the load gives V[k] the byte at I + k of the memory the store left, and that is the V[k] stored. -/
theorem blockLoadUndoesBlockStore : Obligations.BlockLoadUndoesBlockStore := by
  intro x s u h hI
  obtain ⟨t, hstore, hbytes, -⟩ := (blockStore.2 x s).1 h
  obtain ⟨w, hload, hregs, -⟩ := (blockLoad.2 x u).1 (hI ▸ h)
  refine ⟨t, hstore, fun hmem => ⟨w, hload, fun k hk => ?_⟩⟩
  calc w.readV k = u.mem.read (u.iReg.toNat + k.val) := by rw [hregs, if_pos hk]
    _ = t.mem.read (s.iReg.toNat + k.val) := by rw [hI, hmem]
    _ = s.readV k := hbytes k hk

end Sys2Proof.Machine
end

section
/-! SUPPORT. The statements of spec/43_display.md: a sprite as one mask that is XORed into the framebuffer, the
bytes and pixels where that mask is set, and from it the statements about DRW. -/

namespace Sys2Proof.Machine

/-! ### The bytes of a sprite row (R241) -/

/-- The display row that sprite row k lands on, `px div 64` rows lower where px is 64 or more (R244). -/
def spriteRow (px py k : Nat) : Nat := (py + k + px / 64) % 32

section
variable (px py k : Nat)

theorem blitHi_val : (blitHi px py k).val = spriteRow px py k * 8 + px % 64 / 8 := by
  simp only [blitHi, spriteRow]
  omega

theorem blitLo_val_spriteRow : (blitLo px py k).val = spriteRow px py k * 8 + (px % 64 / 8 + 1) % 8 := by
  rw [blitLo_val, blitHi_val]
  split <;> omega

theorem blitHi_row : (blitHi px py k).val / 8 = spriteRow px py k := by
  rw [blitHi_val]
  omega

end

/-- Settles O31: the fold by cases on `hi mod 8`. -/
theorem blitStaysInTheRow : Obligations.BlitStaysInTheRow := by
  intro px py k
  obtain ⟨hne, hrow⟩ := blitLo_same_row px py k
  exact ⟨rfl, blitLo_val px py k, hrow, fun e => hne (congrArg Fin.val e)⟩

/-- Settles O28: the new framebuffer is a block of zero bytes. -/
theorem clearScreenZeroesFramebuffer : Obligations.ClearScreenZeroesFramebuffer :=
  ⟨rfl, fun _ => ⟨_, rfl, fun _ => Vector.getElem_replicate _, rfl, fun _ _ => rfl, rfl, fun _ => rfl,
    ⟨fun _ => rfl, rfl⟩, rfl, ⟨rfl, rfl, rfl, rfl, rfl⟩, rfl, rfl⟩⟩

/-! ### A sprite as a mask over the framebuffer (R242) -/

/-- What sprite row k, the byte `b`, is XORed into framebuffer byte j: a part of `b`, or nothing. -/
def rowMask (px py k : Nat) (b : Byte) (j : Nat) : Byte :=
  if j = (blitHi px py k).val then leftPart b px
  else if j = (blitLo px py k).val then rightPart b px
  else 0#8

/-- What the rows from k on are XORed into framebuffer byte j. -/
def spriteMask (px py : Nat) : Nat → List Byte → Nat → Byte
  | _, [], _ => 0#8
  | k, b :: bs, j => rowMask px py k b j ^^^ spriteMask px py (k + 1) bs j

section
variable (px py k : Nat) (b : Byte)

theorem rowMask_blitHi : rowMask px py k b (blitHi px py k).val = leftPart b px := if_pos rfl

theorem rowMask_blitLo : rowMask px py k b (blitLo px py k).val = rightPart b px := by
  rw [rowMask, if_neg (blitLo_same_row px py k).1, if_pos rfl]

theorem rowMask_eq_zero {j : Nat} (hhi : j ≠ (blitHi px py k).val) (hlo : j ≠ (blitLo px py k).val) :
    rowMask px py k b j = 0#8 := by
  rw [rowMask, if_neg hhi, if_neg hlo]

theorem rowMask_eq_zero_of_row_ne {j : Nat} (h : j / 8 ≠ spriteRow px py k) : rowMask px py k b j = 0#8 := by
  apply rowMask_eq_zero
  · rw [blitHi_val]
    omega
  · rw [blitLo_val_spriteRow]
    omega

theorem getElem_blitRow_xor (r : Frame × Bool) {j : Nat} (hj : j < 256) :
    (blitRow px py k b r).1[j] = r.1[j] ^^^ rowMask px py k b j := by
  rw [getElem_blitRow, rowMask]
  split
  · rfl
  split
  · rfl
  · exact BitVec.xor_zero.symm

/-- A row collides exactly where some byte has a lit pixel under the row's mask. -/
theorem blitRow_hit_iff (r : Frame × Bool) :
    (blitRow px py k b r).2 = true ↔
      r.2 = true ∨ ∃ j : Fin 256, r.1[j.val] &&& rowMask px py k b j.val ≠ 0#8 := by
  rw [blitRow_hit, Bool.or_eq_true, Bool.or_eq_true, bne_iff_ne, bne_iff_ne]
  refine or_congr_right ⟨?_, fun ⟨j, hj⟩ => ?_⟩
  · rintro (h | h)
    · exact ⟨blitHi px py k, by rwa [rowMask_blitHi]⟩
    · exact ⟨blitLo px py k, by rwa [rowMask_blitLo]⟩
  · by_cases hhi : j.val = (blitHi px py k).val
    · left
      simpa only [hhi, rowMask_blitHi] using hj
    by_cases hlo : j.val = (blitLo px py k).val
    · right
      simpa only [hlo, rowMask_blitLo] using hj
    · rw [rowMask_eq_zero px py k b hhi hlo] at hj
      exact absurd BitVec.and_zero hj

end

section
variable {px py k : Nat} {bs : List Byte}

/-- A byte of a display row that no sprite row lands on is left alone. -/
theorem spriteMask_eq_zero_of_row_ne {j : Nat} (h : ∀ i < bs.length, j / 8 ≠ spriteRow px py (k + i)) :
    spriteMask px py k bs j = 0#8 := by
  induction bs generalizing k with
  | nil => rfl
  | cons b bs ih =>
    have hrest : ∀ i < bs.length, j / 8 ≠ spriteRow px py (k + 1 + i) := fun i hi => by
      rw [Nat.add_assoc, Nat.add_comm 1]
      exact h (i + 1) (Nat.succ_lt_succ hi)
    rw [spriteMask, ih hrest, rowMask_eq_zero_of_row_ne px py k b (h 0 (Nat.zero_lt_succ _)), BitVec.xor_zero]

/-- Fewer than 32 rows after row k do not come round to its display row (R242's "distinct modulo 32"). -/
theorem spriteRow_ne {i : Nat} (h0 : 0 < i) (h : i < 32) : spriteRow px py k ≠ spriteRow px py (k + i) := by
  simp only [spriteRow]
  omega

/-- Where row k lands, fewer than 32 rows after it do not. -/
theorem spriteMask_succ_eq_zero {j : Nat} (hlen : bs.length < 32) (hj : j / 8 = spriteRow px py k) :
    spriteMask px py (k + 1) bs j = 0#8 :=
  spriteMask_eq_zero_of_row_ne fun i hi => by
    rw [hj, Nat.add_assoc]
    exact spriteRow_ne (by omega) (by omega)

/-- On the display row of one of at most 32 sprite rows the mask is that row's alone. -/
theorem spriteMask_of_row {i j : Nat} (hlen : bs.length ≤ 32) (hi : i < bs.length)
    (hj : j / 8 = spriteRow px py (k + i)) : spriteMask px py k bs j = rowMask px py (k + i) bs[i] j := by
  induction bs generalizing k i with
  | nil => exact absurd hi (Nat.not_lt_zero i)
  | cons b bs ih =>
    rw [List.length_cons] at hlen hi
    cases i with
    | zero =>
      rw [spriteMask, spriteMask_succ_eq_zero hlen hj, BitVec.xor_zero]
      rfl
    | succ i =>
      have hfirst : j / 8 ≠ spriteRow px py k := hj ▸ (spriteRow_ne (by omega) (by omega)).symm
      rw [Nat.add_comm i, ← Nat.add_assoc] at hj
      rw [spriteMask, rowMask_eq_zero_of_row_ne px py k b hfirst, BitVec.zero_xor, ih (by omega) (by omega) hj,
        Nat.add_assoc, Nat.add_comm 1]
      rfl

/-- The loop XORs the sprite's mask in. -/
theorem getElem_blitRows (r : Frame × Bool) {j : Nat} (hj : j < 256) :
    (blitRows px py k bs r).1[j] = r.1[j] ^^^ spriteMask px py k bs j := by
  induction bs generalizing k r with
  | nil => exact BitVec.xor_zero.symm
  | cons b bs ih => rw [blitRows_cons, ih, getElem_blitRow_xor, spriteMask, BitVec.xor_assoc]

/-- No byte is touched both by row k and by a later row. -/
theorem rowMask_or_spriteMask_eq_zero (b : Byte) (hlen : bs.length < 32) (j : Nat) :
    rowMask px py k b j = 0#8 ∨ spriteMask px py (k + 1) bs j = 0#8 := by
  by_cases hj : j / 8 = spriteRow px py k
  · exact .inr (spriteMask_succ_eq_zero hlen hj)
  · exact .inl (rowMask_eq_zero_of_row_ne px py k b hj)

/-- Each row finds the bytes it touches as they were before the loop, so the sprite collides where its mask does. -/
theorem blitRows_hit_iff (hlen : bs.length ≤ 32) (r : Frame × Bool) :
    (blitRows px py k bs r).2 = true ↔
      r.2 = true ∨ ∃ j : Fin 256, r.1[j.val] &&& spriteMask px py k bs j.val ≠ 0#8 := by
  induction bs generalizing k r with
  | nil => simp [spriteMask]
  | cons b bs ih =>
    rw [List.length_cons] at hlen
    rw [blitRows_cons, ih (by omega), blitRow_hit_iff, or_assoc, ← exists_or]
    refine or_congr_right (exists_congr fun j => ?_)
    rw [getElem_blitRow_xor, spriteMask]
    rcases rowMask_or_spriteMask_eq_zero (px := px) (py := py) (k := k) b hlen j.val with h | h <;> simp [h]

end

/-! ### The pixels of a sprite (R244) -/

/-- A set bit of the sprite byte `b`, drawn at px, lands on column c. -/
def RowCovers (b : Byte) (px c : Nat) : Prop := ∃ i < 8, b.getLsbD (7 - i) = true ∧ c = (px % 64 + i) % 64

section
variable {b : Byte} {px c : Nat}

theorem getLsbD_leftPart (hc : c / 8 = px % 64 / 8) :
    (leftPart b px).getLsbD (7 - c % 8) = true ↔ RowCovers b px c := by
  rw [leftPart, BitVec.getLsbD_ushiftRight, blitShift]
  constructor
  · intro h
    have hlt := BitVec.lt_of_getLsbD h
    refine ⟨7 - (px % 8 + (7 - c % 8)), by omega, ?_, by omega⟩
    rwa [Nat.sub_sub_self (by omega)]
  · rintro ⟨i, hi, hbit, hcol⟩
    have hindex : px % 8 + (7 - c % 8) = 7 - i := by omega
    rwa [hindex]

theorem getLsbD_rightPart (hc64 : c < 64) (hc : c / 8 = (px % 64 / 8 + 1) % 8) :
    (rightPart b px).getLsbD (7 - c % 8) = true ↔ RowCovers b px c := by
  have h8 : 7 - c % 8 < 8 := by omega
  simp only [rightPart, BitVec.getLsbD_shiftLeft, blitShift, h8, decide_true, Bool.true_and, Bool.and_eq_true,
    Bool.not_eq_true', decide_eq_false_iff_not]
  constructor
  · rintro ⟨hge, h⟩
    refine ⟨7 - (7 - c % 8 - (8 - px % 8)), by omega, ?_, by omega⟩
    rwa [Nat.sub_sub_self (by omega)]
  · rintro ⟨i, hi, hbit, hcol⟩
    have hindex : 7 - c % 8 - (8 - px % 8) = 7 - i := by omega
    exact ⟨by omega, by rwa [hindex]⟩

theorem not_rowCovers (hhi : c / 8 ≠ px % 64 / 8) (hlo : c / 8 ≠ (px % 64 / 8 + 1) % 8) : ¬ RowCovers b px c := by
  rintro ⟨i, hi, -, hcol⟩
  omega

end

/-- The pixels set in a row's mask. -/
theorem getLsbD_rowMask (px py k : Nat) (b : Byte) (c : Fin 64) (r : Nat) :
    (rowMask px py k b (r * 8 + c.val / 8)).getLsbD (7 - c.val % 8) = true ↔
      r = spriteRow px py k ∧ RowCovers b px c.val := by
  have hc := c.isLt
  by_cases hr : r = spriteRow px py k
  · rw [hr, and_iff_right rfl]
    by_cases hhi : c.val / 8 = px % 64 / 8
    · rw [hhi, ← blitHi_val, rowMask_blitHi, getLsbD_leftPart hhi]
    by_cases hlo : c.val / 8 = (px % 64 / 8 + 1) % 8
    · rw [hlo, ← blitLo_val_spriteRow, rowMask_blitLo, getLsbD_rightPart hc hlo]
    · have hmask : rowMask px py k b (spriteRow px py k * 8 + c.val / 8) = 0#8 := by
        apply rowMask_eq_zero
        · rw [blitHi_val]
          omega
        · rw [blitLo_val_spriteRow]
          omega
      simp [hmask, not_rowCovers hhi hlo]
  · have hmask : rowMask px py k b (r * 8 + c.val / 8) = 0#8 := rowMask_eq_zero_of_row_ne px py k b (by omega)
    simp [hmask, hr]

/-- Every bit of every framebuffer byte is a pixel (R31). -/
theorem exists_pixel {j i : Nat} (hj : j < 256) (hi : i < 8) :
    ∃ (c : Fin 64) (r : Fin 32), j = r.val * 8 + c.val / 8 ∧ i = 7 - c.val % 8 := by
  refine ⟨⟨j % 8 * 8 + (7 - i), by omega⟩, ⟨j / 8, by omega⟩, ?_, ?_⟩ <;> simp only <;> omega

theorem exists_getLsbD_of_ne_zero {b : Byte} (h : b ≠ 0#8) : ∃ i < 8, b.getLsbD i = true := by
  by_contra hno
  refine h (BitVec.eq_of_getLsbD_eq fun i hi => ?_)
  simpa using fun hb => hno ⟨i, hi, hb⟩

/-- A mask meets a lit pixel of the framebuffer in some byte exactly when it does at some pixel. -/
theorem exists_and_ne_zero_iff (f : Frame) (mask : Nat → Byte) :
    (∃ j : Fin 256, f[j.val] &&& mask j.val ≠ 0#8) ↔
      ∃ (c : Fin 64) (r : Fin 32),
        (mask (r.val * 8 + c.val / 8)).getLsbD (7 - c.val % 8) = true ∧ pixel f c r = true := by
  constructor
  · rintro ⟨⟨j, hj⟩, hne⟩
    obtain ⟨i, hi, hbit⟩ := exists_getLsbD_of_ne_zero hne
    obtain ⟨c, r, rfl, rfl⟩ := exists_pixel hj hi
    rw [BitVec.getLsbD_and, Bool.and_eq_true] at hbit
    exact ⟨c, r, hbit.2, hbit.1⟩
  · rintro ⟨c, r, hmask, hlit⟩
    refine ⟨⟨r.val * 8 + c.val / 8, by omega⟩, fun h0 => ?_⟩
    have hbit := congrArg (·.getLsbD (7 - c.val % 8)) h0
    simp only [BitVec.getLsbD_and, hmask, Bool.and_true, BitVec.getLsbD_zero] at hbit
    exact absurd (hlit.symm.trans hbit) (by decide)

/-- XORing a mask in inverts exactly the pixels set in it. -/
theorem pixel_ne_iff_of_xor {f g : Frame} {mask : Nat → Byte}
    (h : ∀ (j : Nat) (hj : j < 256), g[j] = f[j] ^^^ mask j) (c : Fin 64) (r : Fin 32) :
    pixel g c r ≠ pixel f c r ↔ (mask (r.val * 8 + c.val / 8)).getLsbD (7 - c.val % 8) = true := by
  have hxor : pixel g c r = (pixel f c r ^^ (mask (r.val * 8 + c.val / 8)).getLsbD (7 - c.val % 8)) := by
    rw [pixel, h, BitVec.getLsbD_xor, pixel]
  rw [hxor]
  cases pixel f c r <;> simp

/-- The bits that an XOR takes from 1 to 0 are those that were 1 and are in the mask (R243). -/
theorem and_not_xor_self (a m : Byte) : a &&& ~~~(a ^^^ m) = a &&& m := by
  ext i hi
  simp only [BitVec.getElem_and, BitVec.getElem_not, BitVec.getElem_xor]
  cases a[i] <;> simp

/-! ### DRW (R242 to R244) -/

/-- The mask that DRW Vx,Vy,n XORs into the framebuffer at a state. -/
def drawMask (s : State) (x y : Reg) (n : Fin 16) : Nat → Byte :=
  spriteMask (s.readV x).toNat (s.readV y).toNat 0 (readBytes s.mem s.iReg.toNat n.val)

section
variable {s : State} {x y : Reg} {n : Fin 16}

/-- DRW in range XORs its mask in, and collides where the mask meets a lit pixel (R242, R243). -/
theorem exec_drw_in (h : n.val = 0 ∨ s.iReg.toNat + n.val - 1 ≤ 0xFFF) :
    ∃ (f : Frame) (hit : Bool), exec (.drw x y n) s = .next (advance ((s.setFb f).writeFlag (flagByte hit))) ∧
      (∀ (j : Nat) (hj : j < 256), f[j] = s.fb[j] ^^^ drawMask s x y n j) ∧
      (hit = true ↔ ∃ j : Fin 256, s.fb[j.val] &&& drawMask s x y n j.val ≠ 0#8) := by
  have hlen : (readBytes s.mem s.iReg.toNat n.val).length ≤ 32 := by
    rw [length_readBytes]
    omega
  refine ⟨_, _, withBlock_in (by omega), fun j hj => getElem_blitRows _ hj, ?_⟩
  exact (blitRows_hit_iff hlen _).trans (or_iff_right Bool.false_ne_true)

theorem exec_drw_out (h0 : 0 < n.val) (h : 0xFFF < s.iReg.toNat + n.val - 1) :
    exec (.drw x y n) s = .next (faultedState s .addressOutOfRange (max s.iReg.toNat 0x1000)) :=
  withBlock_out h0 (by omega)

theorem drawMask_of_row {k j : Nat} (hk : k < n.val) (hj : j / 8 = spriteRow (s.readV x).toNat (s.readV y).toNat k) :
    drawMask s x y n j =
      rowMask (s.readV x).toNat (s.readV y).toNat k (s.mem.read (s.iReg.toNat + k)) j := by
  have hlen := length_readBytes s.mem s.iReg.toNat n.val
  rw [drawMask, spriteMask_of_row (i := k) (by omega) (by omega) (by rwa [Nat.zero_add]), getElem_readBytes,
    Nat.zero_add]

theorem drawMask_eq_zero_of_row_ne {j : Nat}
    (h : ∀ k < n.val, j / 8 ≠ spriteRow (s.readV x).toNat (s.readV y).toNat k) : drawMask s x y n j = 0#8 :=
  spriteMask_eq_zero_of_row_ne fun i hi => by
    rw [Nat.zero_add]
    exact h i (by rwa [length_readBytes] at hi)

theorem drawMask_blitHi {k : Nat} (hk : k < n.val) :
    drawMask s x y n (blitHi (s.readV x).toNat (s.readV y).toNat k).val =
      leftPart (s.mem.read (s.iReg.toNat + k)) (s.readV x).toNat := by
  rw [drawMask_of_row hk (blitHi_row _ _ _), rowMask_blitHi]

theorem drawMask_blitLo {k : Nat} (hk : k < n.val) :
    drawMask s x y n (blitLo (s.readV x).toNat (s.readV y).toNat k).val =
      rightPart (s.mem.read (s.iReg.toNat + k)) (s.readV x).toNat := by
  rw [drawMask_of_row hk ((blitLo_same_row _ _ _).2.trans (blitHi_row _ _ _)), rowMask_blitLo]

/-- A byte that is neither the `hi` nor the `lo` of a row is left alone. -/
theorem drawMask_eq_zero {j : Fin 256}
    (h : ∀ k, k < n.val → j ≠ blitHi (s.readV x).toNat (s.readV y).toNat k ∧
      j ≠ blitLo (s.readV x).toNat (s.readV y).toNat k) : drawMask s x y n j.val = 0#8 := by
  by_cases hrow : ∃ k < n.val, j.val / 8 = spriteRow (s.readV x).toNat (s.readV y).toNat k
  · obtain ⟨k, hk, hj⟩ := hrow
    obtain ⟨hhi, hlo⟩ := h k hk
    rw [drawMask_of_row hk hj, rowMask_eq_zero _ _ _ _ (mt Fin.ext hhi) (mt Fin.ext hlo)]
  · exact drawMask_eq_zero_of_row_ne fun k hk hj => hrow ⟨k, hk, hj⟩

theorem drawMask_congr {u : State} (hI : u.iReg = s.iReg) (hx : u.readV x = s.readV x) (hy : u.readV y = s.readV y)
    (hmem : SameMemory s u) : drawMask u x y n = drawMask s x y n := by
  have hbytes : readBytes u.mem s.iReg.toNat n.val = readBytes s.mem s.iReg.toNat n.val :=
    List.ext_getElem (by simp) fun k _ _ => by simp only [getElem_readBytes, hmem _]
  rw [drawMask, hI, hx, hy, hbytes, drawMask]

/-- The pixels set in the mask are those the sprite covers. -/
theorem getLsbD_drawMask (c : Fin 64) (r : Fin 32) :
    (drawMask s x y n (r.val * 8 + c.val / 8)).getLsbD (7 - c.val % 8) = true ↔ SpriteCovers s x y n c r := by
  have hrow : (r.val * 8 + c.val / 8) / 8 = r.val := by omega
  constructor
  · intro h
    by_cases hk : ∃ k < n.val, r.val = spriteRow (s.readV x).toNat (s.readV y).toNat k
    · obtain ⟨k, hk, hr⟩ := hk
      rw [drawMask_of_row hk (hrow.trans hr), getLsbD_rowMask] at h
      obtain ⟨-, i, hi, hbit, hcol⟩ := h
      exact ⟨k, i, hk, hi, hbit, hcol, hr⟩
    · rw [drawMask_eq_zero_of_row_ne fun k hkn hr => hk ⟨k, hkn, hrow.symm.trans hr⟩] at h
      simp at h
  · rintro ⟨k, i, hk, hi, hbit, hcol, hr⟩
    rw [drawMask_of_row hk (hrow.trans hr), getLsbD_rowMask]
    exact ⟨hr, i, hi, hbit, hcol⟩

end

theorem readV_vf_writeFlag (s : State) (b : Byte) : (advance (s.writeFlag b)).readV vf = b :=
  readV_writeV_self s vf b

/-- Settles O29: the XOR inverts the pixels of the mask, and the collision is one of them lit before. -/
theorem drawInvertsTheSpritePixels : Obligations.DrawInvertsTheSpritePixels := by
  intro x y n s h
  obtain ⟨f, hit, hexec, hfb, hhit⟩ := exec_drw_in (x := x) (y := y) h
  simp only [exists_and_ne_zero_iff, getLsbD_drawMask] at hhit
  refine ⟨_, hexec, fun c r => ?_, fun hc => ?_, fun hc => ?_⟩
  · exact (pixel_ne_iff_of_xor hfb c r).trans (getLsbD_drawMask c r)
  · rw [readV_vf_writeFlag, flagByte_eq_one_iff, hhit]
    exact hc
  · rw [readV_vf_writeFlag, flagByte_eq_zero_iff, ← Bool.not_eq_true, hhit]
    exact hc

/-- Settles O30: at `hi` and `lo` of a row the mask is that row's two parts, and elsewhere it is 0. -/
theorem drawBlitsTheSpriteRows : Obligations.DrawBlitsTheSpriteRows := by
  refine ⟨fun w hop => by simp only [decode, hop], fun x y n s => ⟨fun h => ?_, exec_drw_out⟩⟩
  obtain ⟨f, hit, hexec, hfb, hhit⟩ := exec_drw_in (x := x) (y := y) h
  have hregs : SameRegsExcept [vf] s (s.setFb f) := fun _ _ => rfl
  refine ⟨_, hexec, fun j k hk hj => ?_, fun j k hk hj => ?_, fun j hj => ?_, ?_, ?_, rfl, hregs.writeV _ (.head _),
    rfl, fun _ => rfl, ⟨fun _ => rfl, rfl⟩, rfl, ⟨rfl, rfl, rfl, rfl, rfl⟩, rfl, rfl⟩
  · subst hj
    exact (hfb _ _).trans (congrArg _ (drawMask_blitHi hk))
  · subst hj
    exact (hfb _ _).trans (congrArg _ (drawMask_blitLo hk))
  · refine (hfb _ j.isLt).trans ?_
    rw [drawMask_eq_zero hj, BitVec.xor_zero]
  · rw [readV_vf_writeFlag]
    cases hit with
    | false => exact .inl rfl
    | true => exact .inr rfl
  · rw [readV_vf_writeFlag, flagByte_eq_one_iff, hhit]
    refine exists_congr fun j => ?_
    change _ ↔ s.fb[j.val] &&& ~~~f[j.val] ≠ 0#8
    rw [hfb, and_not_xor_self]

/-- Settles O32: the second draw has the mask of the first, and XORing it in again takes it out. -/
theorem drawingTwiceErases : Obligations.DrawingTwiceErases := by
  intro x y n s u h hI hx hy hmem
  obtain ⟨f, _, hexec, hfb, -⟩ := exec_drw_in (x := x) (y := y) h
  obtain ⟨g, _, hexec', hgb, -⟩ := exec_drw_in (s := u) (x := x) (y := y) (hI ▸ h)
  refine ⟨_, hexec, fun (hu : u.fb = f) => ⟨_, hexec', Vector.ext fun j hj => ?_⟩⟩
  calc g[j] = u.fb[j] ^^^ drawMask u x y n j := hgb j hj
    _ = s.fb[j] ^^^ drawMask s x y n j ^^^ drawMask s x y n j := by
      rw [drawMask_congr hI hx hy hmem, hu, hfb j hj]
    _ = s.fb[j] := xor_cancel_right _ _

end Sys2Proof.Machine
end

section
/-! SUPPORT. The statements of spec/44_timer_keys.md: the delay counter's transfers, the two key skips, and the key
wait, from the state that enters it to the press that ends it. -/

namespace Sys2Proof.Machine

/-! ### The delay counter (R270, R271) -/

/-- Settles O33: the one is a register write, the other a DT write. -/
theorem delayCounterTransfers : Obligations.DelayCounterTransfers := by
  refine ⟨fun w hop hkk => ?_, fun w hop hkk => ?_, fun x => ?_, fun x s => ?_⟩
  · simp only [decode, hop, decodeFamilyF, hkk]
  · simp only [decode, hop, decodeFamilyF, hkk]
  · exact setsRegister_of_exec fun _ => rfl
  · exact ⟨_, rfl, rfl, rfl, fun _ _ => rfl, rfl, fun _ => rfl, ⟨fun _ => rfl, rfl⟩, ⟨rfl, rfl, rfl, rfl, rfl⟩, rfl,
      rfl, rfl⟩

/-! ### The key skips (R272 to R274) -/

theorem skipIf_not_pc (down : Bool) (s : State) :
    (skipIf (!down) s).pc = if down = true then s.pc + 2#16 else s.pc + 4#16 := by
  cases down <;> rfl

section
variable {x : Reg} {s : State}

theorem keyAt_eq_some_of_key {k : Key} (h : (s.readV x).toNat = k.val) :
    s.keyAt (s.readV x) = some s.keys[k.val] := by
  simp only [keyAt_eq_some (h ▸ k.isLt), h]

theorem exec_skp_key {k : Key} (h : (s.readV x).toNat = k.val) :
    exec (.skp x) s = .next (skipIf s.keys[k.val] s) := by
  simp only [exec, execSkp, keyAt_eq_some_of_key h]

theorem exec_sknp_key {k : Key} (h : (s.readV x).toNat = k.val) :
    exec (.sknp x) s = .next (skipIf (!s.keys[k.val]) s) := by
  simp only [exec, execSknp, keyAt_eq_some_of_key h]

theorem exec_skp_no_key (h : 0xF < (s.readV x).toNat) :
    exec (.skp x) s = .next (faultedState s .keyIndexOutOfRange (s.readV x).toNat) := by
  simp only [exec, execSkp, keyAt_eq_none_iff.mpr h]
  rfl

theorem exec_sknp_no_key (h : 0xF < (s.readV x).toNat) :
    exec (.sknp x) s = .next (faultedState s .keyIndexOutOfRange (s.readV x).toNat) := by
  simp only [exec, execSknp, keyAt_eq_none_iff.mpr h]
  rfl

end

/-- Settles O34: V[x] names a key or none, and where it names one the skip's test is that key, or its negation. -/
theorem keySkips : Obligations.KeySkips := by
  refine ⟨fun w hop hkk => ?_, fun w hop hkk => ?_, fun x s =>
    ⟨fun k hk => ⟨?_, ?_⟩, fun h => ⟨exec_skp_no_key h, exec_sknp_no_key h⟩⟩⟩
  · simp only [decode, hop, decodeFamilyE, hkk]
  · simp only [decode, hop, decodeFamilyE, hkk]
  · exact ⟨_, exec_skp_key hk, rfl, frameExceptRegs_setPc s _⟩
  · exact ⟨_, exec_sknp_key hk, skipIf_not_pc _ s, frameExceptRegs_setPc s _⟩

/-! ### The key wait (R275, R276) -/

/-- Settles O35: the operation is one write of the status. -/
theorem keyWaitBegins : Obligations.KeyWaitBegins := by
  refine ⟨fun w hop hkk => ?_, fun x s => ?_⟩
  · simp only [decode, hop, decodeFamilyF, hkk]
  · exact ⟨_, rfl, rfl, rfl, fun _ _ => rfl, rfl, fun _ => rfl, ⟨fun _ => rfl, rfl⟩, rfl, ⟨rfl, rfl, rfl, rfl, rfl⟩,
      rfl, rfl⟩

/-- The engine's turn in the key wait is a wait step. -/
theorem step_of_waitKey {x : Reg} {s : State} (turn : nextTurn s = .engine) (status : s.status = .waitKey x) :
    step s = .next (waitStep x (s.setSched s.sched.tail)) := by
  rw [step_of_live (by rw [status]; rfl), turn]
  simp only [takeTurn, engineStep, State.setSched_status, status]

/-- Settles O37: with nothing queued the wait step changes nothing. -/
theorem emptyKeyWaitIsHeld : Obligations.EmptyKeyWaitIsHeld := fun _ _ status shut queue turn =>
  (step_of_waitKey turn status).trans (congrArg _ (waitStep_held shut queue))

theorem stepTurn_engine_of_waitKey {x : Reg} {s : State} (status : s.status = .waitKey x) :
    stepTurn .engine s = .next (waitStep x s) :=
  step_of_waitKey (s := s.setSched (.engine :: s.sched)) rfl status

section
variable {x : Reg} {s : State} {k : Key} {rest : List KeyEvent} (status : s.status = .waitKey x)
  (shut : s.shut = false)
include status shut

theorem stepTurn_engine_release (queue : s.kq = ⟨k, .released⟩ :: rest) :
    stepTurn .engine s = .next ((s.setKeys (s.keys.set k.val false)).setKq rest) :=
  (stepTurn_engine_of_waitKey status).trans (congrArg _ (waitStep_release shut queue))

theorem stepTurn_engine_press (queue : s.kq = ⟨k, .pressed⟩ :: rest) :
    stepTurn .engine s = .next (((((s.setKeys (s.keys.set k.val true)).setKq rest).writeV x
      (BitVec.ofNat 8 k.val)).setPc (s.pc + 2#16)).setStatus .running) :=
  (stepTurn_engine_of_waitKey status).trans (congrArg _ (waitStep_press shut queue))

end

theorem runSchedule_succ {f : Schedule} {n : Nat} {s t u : State} (hrun : runSchedule f n s = some t)
    (hstep : stepTurn (f n) t = .next u) : runSchedule f (n + 1) s = some u := by
  simp only [runSchedule, hrun, hstep]

/-- The wait takes the releases at the head of the queue one step each: they go into the key-state bitmap, and nothing
else changes. -/
theorem runSchedule_releases {x : Reg} {s : State} (status : s.status = .waitKey x) (shut : s.shut = false)
    {releases : List KeyEvent} (released : ∀ e ∈ releases, e.action = .released) {rest : List KeyEvent}
    (queue : s.kq = releases ++ rest) :
    runSchedule engineOnly releases.length s =
      some ((s.setKeys (releases.foldl applyEvent s.keys)).setKq rest) := by
  induction releases using List.reverseRecOn generalizing rest with
  | nil =>
    obtain rfl : s.kq = rest := queue
    rfl
  | append_singleton rs e ih =>
    obtain ⟨hrs, he⟩ := List.forall_mem_append.mp released
    obtain ⟨k, action⟩ := e
    obtain rfl : action = .released := he _ (.head _)
    have hrun := ih hrs (queue.trans (List.append_assoc rs _ rest))
    rw [List.length_append, List.foldl_append]
    exact runSchedule_succ hrun (stepTurn_engine_release status shut rfl)

/-- After releases alone, a key that is among them is up, and any other as before. -/
theorem getElem_foldl_releases (m : KeyMap) {releases : List KeyEvent}
    (released : ∀ e ∈ releases, e.action = .released) (j : Key) :
    (releases.foldl applyEvent m)[j.val] = if ∃ e ∈ releases, e.key = j then false else m[j.val] := by
  rw [getElem_foldl_applyEvent]
  cases hlast : (releases.filter fun e => e.key = j).getLast? with
  | none =>
    have hnone : ¬ ∃ e ∈ releases, e.key = j := by
      simpa [List.getLast?_eq_none_iff, List.filter_eq_nil_iff] using hlast
    exact (if_neg hnone).symm
  | some e =>
    obtain ⟨hmem, hkey⟩ := List.mem_filter.mp (List.mem_of_getLast? hlast)
    rw [if_pos ⟨e, hmem, of_decide_eq_true hkey⟩, Option.elim_some, released e hmem]
    rfl

theorem getElem_set_key (m : KeyMap) (k j : Key) (down : Bool) :
    (m.set k.val down)[j.val] = if j = k then down else m[j.val] := by
  simp only [Vector.getElem_set, Fin.val_inj, eq_comm]

/-- Settles O36: a release is one wait step, and so are the releases and the press one after another. -/
theorem keyWaitEndsAtTheFirstPress : Obligations.KeyWaitEndsAtTheFirstPress := by
  refine ⟨fun x k rest s status shut turn queue => ?_, fun x k releases rest s status shut released queue => ?_⟩
  · have hwait := waitStep_release (x := x) (s := s.setSched s.sched.tail) shut queue
    exact ⟨_, (step_of_waitKey turn status).trans (congrArg _ hwait), fun j => getElem_set_key s.keys k j false, rfl,
      status, rfl, rfl⟩
  · have hrun := runSchedule_releases status shut released queue
    refine ⟨_, runSchedule_succ hrun (stepTurn_engine_press status shut rfl), rfl, ?_, rfl, rfl, fun j => ?_, ?_, rfl,
      fun _ => rfl, ⟨fun _ => rfl, rfl⟩, rfl, rfl, rfl, rfl, rfl, rfl⟩
    · exact (congrArg BitVec.toNat (readV_writeV_self _ x _)).trans (Nat.mod_eq_of_lt (by omega))
    · rw [← getElem_foldl_releases s.keys released]
      exact getElem_set_key _ k j true
    · exact (SameRegsExcept.refl [x] s).writeV _ (.head _)

end Sys2Proof.Machine
end

section
/-! SUPPORT. The statements of spec/60_exceptions.md: each operation's own fault or its completion, the turns of the
agents beside the engine, the counters under ticks and under a fair schedule, and the list of turns as a schedule. -/

namespace Sys2Proof.Machine

/-! ### The faults an operation raises (R300, R301, R303) -/

/-- What `exec` answers for the operation's own fault, or for none: that fault with every write withheld, or a next state
in which the engine runs on or enters the key wait. -/
def Answers (i : Instr) (s : State) : Option (FaultCode × Nat) → Prop
  | some (code, info) => exec i s = .next (faultedState s code info)
  | none => ∃ t, exec i s = .next t ∧ (t.status = s.status ∨ ∃ x, i = .waitKey x ∧ t.status = .waitKey x)

theorem answers_ite {i : Instr} {s : State} {c : Prop} [Decidable c] {code : FaultCode} {info : Nat}
    (fault : c → exec i s = .next (faultedState s code info)) (completes : ¬ c → Answers i s none) :
    Answers i s (if c then some (code, info) else none) := by
  split
  · exact fault ‹c›
  · exact completes ‹¬ c›

/-- The condition of `faultOf` for each operation is the one its meaning tests. -/
theorem exec_answers_faultOf (i : Instr) (s : State) : Answers i s (faultOf i s) := by
  have hsp := s.sp.isLt
  cases i with
  | call nnn => exact answers_ite (exec_call_full nnn) fun h => ⟨_, exec_call nnn (by omega), .inl rfl⟩
  | ret =>
    exact answers_ite exec_ret_empty fun h =>
      ⟨_, exec_ret (j := ⟨s.sp.val - 1, by omega⟩) (Nat.succ_pred h).symm, .inl rfl⟩
  | addI x => exact answers_ite exec_addI_overflow fun h => ⟨_, exec_addI_in (Nat.not_lt.mp h), .inl rfl⟩
  | ldB x => exact answers_ite exec_ldB_out fun h => ⟨_, exec_ldB_in (Nat.not_lt.mp h), .inl rfl⟩
  | storeRegs x => exact answers_ite exec_storeRegs_out fun h => ⟨_, exec_storeRegs_in (Nat.not_lt.mp h), .inl rfl⟩
  | loadRegs x => exact answers_ite exec_loadRegs_out fun h => ⟨_, exec_loadRegs_in (Nat.not_lt.mp h), .inl rfl⟩
  | drw x y n =>
    refine answers_ite (fun h => exec_drw_out h.1 h.2) fun h => ?_
    obtain ⟨f, hit, he, -, -⟩ := exec_drw_in (s := s) (x := x) (y := y) (n := n) (by omega)
    exact ⟨_, he, .inl rfl⟩
  | skp x =>
    exact answers_ite exec_skp_no_key fun h =>
      ⟨_, exec_skp_key (k := ⟨(s.readV x).toNat, by omega⟩) rfl, .inl rfl⟩
  | sknp x =>
    exact answers_ite exec_sknp_no_key fun h =>
      ⟨_, exec_sknp_key (k := ⟨(s.readV x).toNat, by omega⟩) rfl, .inl rfl⟩
  | waitKey x => exact ⟨_, rfl, .inr ⟨x, rfl, rfl⟩⟩
  | cls | jp | seImm | sneImm | seReg | sneReg | ldImm | ldReg | addImm | addReg | or | and | xor | sub | shr | shl
  | ldI | ldF | rnd | ldVDt | ldDtV | sys => exact ⟨_, rfl, .inl rfl⟩

/-- Settles O41: the two clauses are the two cases of `Answers`. -/
theorem everyOperationCompletesOrFaultsAsListed : Obligations.EveryOperationCompletesOrFaultsAsListed := by
  intro i s
  have h := exec_answers_faultOf i s
  exact ⟨fun _ _ hf => by rwa [hf] at h, fun hf => by rwa [hf] at h⟩

/-! ### The turns of the agents beside the engine (R307, R310, R312, R313) -/

theorem step_of_turn {s : State} {a : Turn} (live : s.status.live = true) (turn : nextTurn s = a) :
    step s = takeTurn a (s.setSched s.sched.tail) :=
  turn ▸ step_of_live live

theorem stepTurn_of_live {s : State} (a : Turn) (live : s.status.live = true) : stepTurn a s = takeTurn a s :=
  step_of_live (s := s.setSched (a :: s.sched)) live

/-- Settles O43: in a live status the step is the agent's turn, and each turn is one update. -/
theorem otherAgentsWriteOnlyTheirOwn : Obligations.OtherAgentsWriteOnlyTheirOwn := fun s live =>
  ⟨fun turn => ⟨countDown s.dt, countDown s.st, toNat_countDown _, toNat_countDown _, step_of_turn live turn⟩,
    fun _ turn => step_of_turn live turn, step_of_turn live, step_of_turn live⟩

/-! ### Ticks alone (R307) -/

/-- After n ticks the two counters hold what n ticks leave, and every other field is as it was. -/
theorem runSchedule_timerOnly {s : State} (live : s.status.live = true) (n : Nat) :
    ∃ d e : Byte, runSchedule timerOnly n s = some ((s.setDt d).setSt e) ∧ d.toNat = s.dt.toNat - n ∧
      e.toNat = s.st.toNat - n := by
  induction n with
  | zero => exact ⟨s.dt, s.st, rfl, rfl, rfl⟩
  | succ n ih =>
    obtain ⟨d, e, hrun, hd, he⟩ := ih
    refine ⟨countDown d, countDown e,
      runSchedule_succ hrun (stepTurn_of_live (s := (s.setDt d).setSt e) .timer live), ?_, ?_⟩
    · rw [toNat_countDown, hd, Nat.sub_sub]
    · rw [toNat_countDown, he, Nat.sub_sub]

/-- Settles O45: a tick counts each counter down, and `runSchedule_timerOnly` repeats it. -/
theorem ticksCountDown : Obligations.TicksCountDown := by
  intro n s live
  obtain ⟨d, e, hrun, hd, he⟩ := runSchedule_timerOnly live n
  exact ⟨_, hrun, hd, he, rfl⟩

/-! ### A fair schedule (R308) -/

/-- A sequence that never rises, and falls by one at steps that come again and again, is 0 from some point on: its least
value can fall no further, so that value is 0. -/
theorem eventually_zero_of_antitone {d : Nat → Nat} {falls : Nat → Prop} (anti : Antitone d)
    (hfall : ∀ m, falls m → d (m + 1) = d m - 1) (often : ∀ n, ∃ m, n ≤ m ∧ falls m) :
    ∃ n, ∀ m, n ≤ m → d m = 0 := by
  have least := Function.argmin_le d
  obtain ⟨m, hm, hf⟩ := often (Function.argmin d)
  have hzero : d (Function.argmin d) = 0 := by
    have := anti hm
    have := hfall m hf
    have := least (m + 1)
    omega
  exact ⟨_, fun k hk => Nat.le_zero.mp (hzero ▸ anti hk)⟩

theorem runSchedule_succ_eq_some {f : Schedule} {n : Nat} {s u : State} :
    runSchedule f (n + 1) s = some u ↔ ∃ t, runSchedule f n s = some t ∧ stepTurn (f n) t = .next u := by
  refine ⟨fun h => ?_, fun ⟨t, hrun, hstep⟩ => runSchedule_succ hrun hstep⟩
  simp only [runSchedule] at h
  split at h
  · cases h
  · split at h
    · cases h
      exact ⟨_, ‹_›, ‹_›⟩
    · cases h
    · cases h

theorem stepTurn_timer_dt {t u : State} (h : stepTurn .timer t = .next u) : u.dt.toNat = t.dt.toNat - 1 := by
  have live : t.status.live = true := (step_next h).1
  rw [stepTurn_of_live .timer live] at h
  cases h
  exact toNat_countDown t.dt

/-- A turn that executes no LD DT,Vx does not raise DT (R27). -/
theorem stepTurn_dt_le {a : Turn} {t u : State} (h : stepTurn a t = .next u)
    (no : a = .engine → ¬ ∃ x, Executes { t with sched := [] } (.ldDtV x)) : u.dt.toNat ≤ t.dt.toNat := by
  by_cases hdt : u.dt = t.dt
  · rw [hdt]
  · rcases delayCounterWriters _ u h hdt with ⟨-, htick⟩ | ⟨x, ⟨turn, rest⟩, -⟩
    · exact (Nat.le_succ _).trans_eq htick
    · exact absurd ⟨x, rfl, rest⟩ (no turn)

/-- Settles O46: along the run DT never rises, and falls at every tick. -/
theorem fairTimerReachesZero : Obligations.FairTimerReachesZero := by
  intro f s fair endless no
  choose run hrun using endless
  have hstep (n : Nat) : stepTurn (f n) (run n) = .next (run (n + 1)) := by
    obtain ⟨t, ht, h⟩ := runSchedule_succ_eq_some.mp (hrun (n + 1))
    rw [hrun n] at ht
    cases ht
    exact h
  have anti : Antitone fun n => (run n).dt.toNat :=
    antitone_nat_of_succ_le fun n => stepTurn_dt_le (hstep n) (no n _ (hrun n))
  obtain ⟨n, hn⟩ := eventually_zero_of_antitone anti (falls := fun m => f m = .timer)
    (fun m hm => stepTurn_timer_dt (hm ▸ hstep m)) fair
  refine ⟨n, fun m t hm ht => BitVec.eq_of_toNat_eq ?_⟩
  rw [hrun m] at ht
  cases ht
  exact hn m hm

/-! ### No turn reads the turns to come (R316, decision D1) -/

section
variable (s : State) (ts : List Turn)

theorem mapNext_setSched_withBlock (len : Nat) (body : Outcome) :
    mapNext (·.setSched ts) (withBlock s len body) = withBlock (s.setSched ts) len (mapNext (·.setSched ts) body) := by
  rcases withBlock_cases s len body with ⟨h, e⟩ | ⟨⟨h0, h⟩, e⟩ <;> rw [e]
  · exact (withBlock_in (s := s.setSched ts) h).symm
  · exact (withBlock_out (s := s.setSched ts) h0 h).symm

/-- No operation reads or writes the list of turns. The cases are those in which a meaning tests the state. -/
theorem mapNext_setSched_exec (i : Instr) : mapNext (·.setSched ts) (exec i s) = exec i (s.setSched ts) := by
  have hsp := s.sp.isLt
  cases i with
  | call nnn =>
    by_cases h : s.sp.val < 16
    · rw [exec_call nnn h, exec_call (s := s.setSched ts) nnn h]; rfl
    · have hfull : s.sp.val = 16 := by omega
      rw [exec_call_full nnn hfull, exec_call_full (s := s.setSched ts) nnn hfull]; rfl
  | ret =>
    cases h : s.sp.val with
    | zero => rw [exec_ret_empty h, exec_ret_empty (s := s.setSched ts) h]; rfl
    | succ j =>
      rw [exec_ret (j := ⟨j, by omega⟩) h, exec_ret (s := s.setSched ts) (j := ⟨j, by omega⟩) h]; rfl
  | skp x | sknp x =>
    have hkey : (s.setSched ts).keyAt (s.readV x) = s.keyAt (s.readV x) := rfl
    simp only [exec, execSkp, execSknp, readV_setSched, hkey]
    cases s.keyAt (s.readV x) <;> rfl
  | addI => exact apply_ite (mapNext _) _ _ _
  | ldB | storeRegs | loadRegs | drw => exact mapNext_setSched_withBlock s ts _ _
  | _ => rfl

theorem mapNext_setSched_cycle : mapNext (·.setSched ts) (cycle s) = cycle (s.setSched ts) := by
  have hf : fetch (drain (s.setSched ts)) = fetch (drain s) := rfl
  simp only [cycle, fetchExecute, State.setSched_shut, hf]
  cases s.shut with
  | true => rfl
  | false =>
    cases fetch (drain s) with
    | none => rfl
    | some w =>
      cases h : decode w with
      | unknownOpcode u => simp only [h]; rfl
      | op i => simp only [h]; exact mapNext_setSched_exec (drain s) ts i

theorem waitStep_setSched (x : Reg) : waitStep x (s.setSched ts) = (waitStep x s).setSched ts := by
  rcases waitStep_cases x s with
    ⟨shut, e⟩ | ⟨shut, queue, e⟩ | ⟨k, rest, shut, queue, e⟩ | ⟨k, rest, shut, queue, e⟩ <;> rw [e]
  · exact waitStep_shutdown (s := s.setSched ts) shut
  · exact waitStep_held (s := s.setSched ts) shut queue
  · exact waitStep_release (s := s.setSched ts) shut queue
  · exact waitStep_press (s := s.setSched ts) shut queue

theorem mapNext_setSched_takeTurn (a : Turn) :
    mapNext (·.setSched ts) (takeTurn a s) = takeTurn a (s.setSched ts) := by
  cases a with
  | engine =>
    simp only [takeTurn, engineStep, State.setSched_status]
    cases s.status with
    | running => exact mapNext_setSched_cycle s ts
    | waitKey x => exact congrArg Host.Outcome.next (waitStep_setSched s ts x).symm
    | halted | faulted => rfl
  | _ => rfl

/-- A step that takes turn `a` off the list is `a`'s turn, whatever stands behind `a`. -/
theorem step_setSched_cons (a : Turn) : step (s.setSched (a :: ts)) = mapNext (·.setSched ts) (stepTurn a s) := by
  cases live : s.status.live with
  | true =>
    rw [stepTurn_of_live a live]
    exact (step_of_live (s := s.setSched (a :: ts)) live).trans (mapNext_setSched_takeTurn s ts a).symm
  | false =>
    simp only [stepTurn, step, systemStep, State.setSched_status]
    cases hs : s.status with
    | running | waitKey => rw [hs] at live; cases live
    | halted | faulted => rfl

end

theorem mapNext_eq_next {g : State → State} {o : Outcome} {u : State} :
    mapNext g o = .next u ↔ ∃ t, o = .next t ∧ g t = u := by
  cases o <;> simp [mapNext]

theorem ExecEffect.sched_eq {s t : State} {i : Instr} (h : ExecEffect s i t) : t.sched = s.sched := by cases h <;> rfl

/-- A step takes its turn off the list and leaves the turns behind it. -/
theorem step_sched {s t : State} (h : step s = .next t) : t.sched = s.sched.tail := by
  cases effect_of_step h with
  | exec i t executes effect => exact effect.sched_eq
  | _ => rfl

theorem runSchedule_sched {f : Schedule} {n : Nat} {s t : State} (h : runSchedule f n s = some t) :
    t.sched = s.sched := by
  induction n generalizing t with
  | zero => cases h; rfl
  | succ n ih =>
    obtain ⟨u, hrun, hstep⟩ := runSchedule_succ_eq_some.mp h
    exact (step_sched hstep).trans (ih hrun)

/-! ### The list of turns as a schedule (log entry 3) -/

/-- A run's last step, taken apart from the steps before it. -/
theorem core_run_succ {M : Host.Core} {n : Nat} {s u : M.State} :
    M.run (n + 1) s = .next u ↔ ∃ t, M.run n s = .next t ∧ M.step t = .next u := by
  induction n generalizing s with
  | zero =>
    simp only [Host.Core.run, Host.Outcome.next.injEq, exists_eq_left']
    cases M.step s <;> simp
  | succ n ih =>
    cases h : M.step s with
    | next t => simpa only [Host.Core.run, h] using ih (s := t)
    | fault r | refused r => simp [Host.Core.run, h]

/-- A run takes the turns at the head of its list as a schedule from outside gives them, and leaves those behind. -/
theorem core_run_append {f : Schedule} {n : Nat} {s t : State} (ts : List Turn) :
    Host.Core.run core n (s.setSched ((List.range n).map f ++ ts)) = .next t ↔
      ∃ u, runSchedule f n s = some u ∧ u.setSched ts = t := by
  induction n generalizing ts t with
  | zero =>
    refine ⟨fun h => ⟨s, rfl, Host.Outcome.next.inj h⟩, ?_⟩
    rintro ⟨u, ⟨⟩, rfl⟩
    rfl
  | succ n ih =>
    rw [List.range_succ, List.map_append, List.append_assoc]
    refine (core_run_succ (M := core)).trans ⟨?_, ?_⟩
    · rintro ⟨v, hrun, hstep⟩
      obtain ⟨u, hu, rfl⟩ := (ih (f n :: ts)).mp hrun
      obtain ⟨w, hw, rfl⟩ := mapNext_eq_next.mp ((step_setSched_cons u ts (f n)).symm.trans hstep)
      exact ⟨w, runSchedule_succ hu hw, rfl⟩
    · rintro ⟨w, hw, rfl⟩
      obtain ⟨u, hu, hstep⟩ := runSchedule_succ_eq_some.mp hw
      exact ⟨_, (ih (f n :: ts)).mpr ⟨u, hu, rfl⟩, (step_setSched_cons u ts (f n)).trans (congrArg _ hstep)⟩

/-- Settles O47: the run that takes the n turns leaves the state's own list behind them, and so does every run under a
schedule from outside. -/
theorem everyInterleavingIsARun : Obligations.EveryInterleavingIsARun := by
  intro f n s t
  have hsched {u : State} (h : runSchedule f n s = some u) : u.setSched s.sched = u := by
    rw [← runSchedule_sched h]
    rfl
  refine ⟨fun h => (core_run_append s.sched).mpr ⟨t, h, hsched h⟩, fun h => ?_⟩
  obtain ⟨u, hu, rfl⟩ := (core_run_append s.sched).mp h
  rwa [hsched hu]

end Sys2Proof.Machine
end
